-- ==== Sys2Proof/Word.lean ====
section
/-! DEFINITION. The widths of the machine: words, bytes, and the number types of instruction fields
(spec/00_scope.md R7, R9; spec/30_encoding.md R81 to R90). -/

namespace Sys2Proof

/-- A 32-bit pattern: register contents, addresses, instruction words (R7, R9). -/
abbrev Word := BitVec 32

/-- Eight bits of memory (R7). -/
abbrev Byte := BitVec 8

/-- The number of a general register, 0 to 31: a name, never register contents (R8, R20). -/
abbrev Reg := Fin 32

/-- A bit position or shift amount given by a 5-bit field, 0 to 31 (R81, R86). -/
abbrev BitIndex := Fin 32

end Sys2Proof
end

