-- ==== Sys2Proof/Machine/Flags.lean ====
section
/-! DEFINITION. The core keeps no flags and no condition codes (spec/10_state.md R40). What stands here is
computed inside one instruction and stored nowhere: the comparisons on register contents, signed on `s(v)` and
unsigned on `u(v)` (spec/00_scope.md R9), and the signed-add overflow of BOVC and BNVC. -/

namespace Sys2Proof.Machine

/-- `s(a) < s(b)`. -/
def ltSigned (a b : Word) : Bool := decide (a.toInt < b.toInt)

/-- `u(a) < u(b)`. -/
def ltUnsigned (a b : Word) : Bool := decide (a.toNat < b.toNat)

/-- `s(a) >= s(b)`. -/
def geSigned (a b : Word) : Bool := !ltSigned a b

/-- `u(a) >= u(b)`. -/
def geUnsigned (a b : Word) : Bool := !ltUnsigned a b

/-- `s(a) < 0`. -/
def ltZero (a : Word) : Bool := ltSigned a 0#32

/-- `s(a) >= 0`. -/
def geZero (a : Word) : Bool := !ltZero a

/-- `s(a) > 0`. -/
def gtZero (a : Word) : Bool := ltSigned 0#32 a

/-- `s(a) <= 0`. -/
def leZero (a : Word) : Bool := !gtZero a

/-- The result of a set-on-less-than: 1 or 0. -/
def boolWord (c : Bool) : Word := if c then 1#32 else 0#32

/-- Signed-add overflow (spec/44_pop_compact.md R245, form (ii)): the operands sign-extended to 33 bits and
added, bit 32 of the sum differs from bit 31. -/
def addOverflows (a b : Word) : Bool :=
  let t := a.signExtend 33 + b.signExtend 33
  t.getLsbD 32 != t.getLsbD 31

end Sys2Proof.Machine
end

