-- ==== Sys2Proof/Config.lean ====
section
/-! DEFINITION. The implementation parameters of spec/00_scope.md R6: what an implementation fixes and
no instruction changes. They are plain data, arguments of the model that State carries, so that a claim
over every state is a claim over every value of every parameter. -/

namespace Sys2Proof

/-- `MEM_ENDIAN`: the byte order of the memory behind the interface (spec/20_memory.md R53). -/
inductive Endian where
  | little
  | big
deriving DecidableEq, Repr

/-- A range of byte addresses, both ends included. -/
structure Region where
  first : Nat
  last : Nat
deriving DecidableEq, Repr

/-- `DIV_OVF`: what DIV and MOD write for the one signed division whose quotient does not fit,
0x8000_0000 by 0xFFFF_FFFF (spec/42_special_muldiv_jump_trap.md R189). -/
structure DivOverflow where
  quotient : Word
  remainder : Word
deriving DecidableEq, Repr

/-- The parameters left to the implementor (R6; spec/92_eei_decisions.md D2, D4, D9). Natural alignment
(`MEM_ALIGN`, D3) is fixed by R54 and is no parameter here. -/
structure Config where
  /-- `MEM_ENDIAN`. -/
  endian : Endian
  /-- `MAPPED`, as a union of ranges. -/
  mapped : List Region
  /-- `DIV_OVF`. -/
  divOverflow : DivOverflow
deriving DecidableEq, Repr

/-- The reference values (DESIGN CHOICE, log entries 1, 2 and 4; unsafe for a claim that rests on them):
little-endian memory, every byte address mapped, quotient 0x8000_0000 and remainder 0. -/
def Config.reference : Config :=
  { endian := .little
    mapped := [⟨0, 0xFFFFFFFF⟩]
    divOverflow := ⟨0x80000000#32, 0#32⟩ }

/-- What a mapped byte that no cell lists reads as (DESIGN CHOICE, log entry 3; unsafe): the spec leaves
the content of memory at reset to the host (spec/70_reset_and_hazards.md R381). -/
def unlistedByte : Byte := 0#8

/-- `TRAP_CODE`: the numeric code of the cause kind `trap` (spec/10_state.md R32, D15). -/
def trapCode : Nat := 13

end Sys2Proof
end

