-- ==== Sys2Proof/Machine/Operands.lean ====
section
/-! DEFINITION. Immediates, targets and addresses: every operand form of spec/30_encoding.md R91 to R97, and the
exact products, quotients and bit manipulations the instruction rules name. -/

namespace Sys2Proof.Machine

/-! ## Extension (spec/00_scope.md R10) -/

/-- `sext_8`: bits 7..0, bit 7 replicated upward. -/
def sext8 (v : Word) : Word := (v.extractLsb' 0 8).signExtend 32

/-- `sext_16` of a word's low half. -/
def sext16Low (v : Word) : Word := (v.extractLsb' 0 16).signExtend 32

/-- `sext_16` of a 16-bit field (R91). -/
def sext16 (imm : BitVec 16) : Word := imm.signExtend 32

/-- `sext_21` of a 21-bit field (R92). -/
def sext21 (imm : BitVec 21) : Word := imm.signExtend 32

/-- `sext_26` of a 26-bit field (R93). -/
def sext26 (address : BitVec 26) : Word := address.signExtend 32

/-- `zext_16` of a 16-bit field (R94). -/
def zext16 (imm : BitVec 16) : Word := imm.zeroExtend 32

/-- `imm << 16`, the pattern `imm ## 0x0000` (R97; spec/90_conflicts.md C1). -/
def upperImm (imm : BitVec 16) : Word := imm ++ 0#16

/-! ## Targets and addresses -/

/-- `branch_target = cpc + sext_16(imm) * 4` (R95). -/
def branchTarget (cpc : Word) (imm : BitVec 16) : Word := cpc + sext16 imm * 4#32

/-- `cpc + sext_21(imm21) * 4`, of BEQZC and BNEZC (R95). -/
def branchTarget21 (cpc : Word) (imm21 : BitVec 21) : Word := cpc + sext21 imm21 * 4#32

/-- `cpc + sext_26(address) * 4`, of BC and BALC (R95). -/
def branchTarget26 (cpc : Word) (address : BitVec 26) : Word := cpc + sext26 address * 4#32

/-- `jta = cpc[31:28] ## address ## 0b00`, of J and JAL (R96). -/
def jumpTarget (cpc : Word) (address : BitVec 26) : Word := cpc.extractLsb' 28 4 ++ address ++ 0b00#2

/-- `A = iaddr + sext_21(imm19 ## 0b00)`, of ADDIUPC and LWPC (R97; spec/49_pcrel_fpu.md R331). -/
def pcrelAddress (iaddr : Word) (imm19 : BitVec 19) : Word := iaddr + sext21 (imm19 ++ 0b00#2)

/-- `A = iaddr + (imm ## 0x0000)`, of AUIPC and ALUIPC (R97, R331). -/
def pcrelUpper (iaddr : Word) (imm : BitVec 16) : Word := iaddr + upperImm imm

/-- `EA = x[rs] + sext_16(imm)` (spec/45_loadstore.md R270). -/
def effectiveAddress (base : Word) (imm : BitVec 16) : Word := base + sext16 imm

/-- The shift amount of a variable shift: `x[rs] & 31` (spec/41_special_alu_shift.md section 3). -/
def shiftAmount (v : Word) : Nat := (v.extractLsb' 0 5).toNat

/-! ## Shifts, rotates, counts (spec/41_special_alu_shift.md) -/

/-- The fill of an arithmetic right shift by `n`: bits 31..(32-n) all equal to bit 31 of `v` (R150). -/
def signFill (v : Word) (n : Nat) : Word := if v.msb then ~~~(BitVec.allOnes 32 >>> n) else 0#32

/-- Arithmetic right shift by `n` < 32 (R150). -/
def arithShiftRight (v : Word) (n : Nat) : Word := (v >>> n) ||| signFill v n

/-- Rotate right by `n` < 32; by 0 it copies (R153, R155). -/
def rotateRight (v : Word) (n : Nat) : Word := if n = 0 then v else (v >>> n) ||| (v <<< (32 - n))

/-- How many consecutive bits of the low `k` equal `b`, from bit `k-1` downward. -/
def leadingRun (b : Bool) (v : Word) : Nat → Nat
  | 0 => 0
  | k + 1 => if v.getLsbD k == b then leadingRun b v k + 1 else 0

/-- The number of consecutive 0 bits from bit 31 downward, 0 to 32 (R160). -/
def countLeadingZeros (v : Word) : Word := BitVec.ofNat 32 (leadingRun false v 32)

/-- The number of consecutive 1 bits from bit 31 downward, 0 to 32 (R161). -/
def countLeadingOnes (v : Word) : Word := BitVec.ofNat 32 (leadingRun true v 32)

/-! ## Products and quotients (spec/42_special_muldiv_jump_trap.md) -/

/-- `mul64s`: the exact signed product as a 64-bit pattern (R180). -/
def mul64s (a b : Word) : BitVec 64 := BitVec.ofInt 64 (a.toInt * b.toInt)

/-- `mul64u`: the exact unsigned product as a 64-bit pattern (R180). -/
def mul64u (a b : Word) : BitVec 64 := BitVec.ofNat 64 (a.toNat * b.toNat)

/-- Bits 31..0 of a product. -/
def lowWord (p : BitVec 64) : Word := p.extractLsb' 0 32

/-- Bits 63..32 of a product. -/
def highWord (p : BitVec 64) : Word := p.extractLsb' 32 32

/-- The one signed division whose quotient does not fit (R189). -/
def divisionOverflows (a b : Word) : Bool := a == 0x80000000#32 && b == 0xFFFFFFFF#32

/-- The signed quotient truncated toward zero, and `DIV_OVF`'s where that does not fit (R185, R189). -/
def signedQuotient (o : DivOverflow) (a b : Word) : Word :=
  if divisionOverflows a b then o.quotient else BitVec.ofInt 32 (a.toInt.tdiv b.toInt)

/-- The signed remainder, of the dividend's sign, and `DIV_OVF`'s in the overflow case (R186, R189). -/
def signedRemainder (o : DivOverflow) (a b : Word) : Word :=
  if divisionOverflows a b then o.remainder else BitVec.ofInt 32 (a.toInt.tmod b.toInt)

/-- `floor(u(a) / u(b))` (R187). -/
def unsignedQuotient (a b : Word) : Word := BitVec.ofNat 32 (a.toNat / b.toNat)

/-- `u(a) mod u(b)` (R188). -/
def unsignedRemainder (a b : Word) : Word := BitVec.ofNat 32 (a.toNat % b.toNat)

/-! ## Byte shuffles and bit fields (spec/48_special3.md) -/

/-- Byte `k` of a word, bits `8k+7 .. 8k`. -/
def byteOf (v : Word) (k : Nat) : Byte := v.extractLsb' (8 * k) 8

/-- Each byte's bits reversed, the bytes in place (R311). -/
def bitswapWord (v : Word) : Word :=
  (byteOf v 3).reverse ++ (byteOf v 2).reverse ++ (byteOf v 1).reverse ++ (byteOf v 0).reverse

/-- The bytes swapped within each half-word (R312). -/
def wsbhWord (v : Word) : Word := byteOf v 2 ++ byteOf v 3 ++ byteOf v 0 ++ byteOf v 1

/-- `(lo << 8*bp) | (hi >> 8*(4 - bp))`, and `lo` itself when `bp = 0` (R313): `lo` is `x[rt]`, `hi` is
`x[rs]`. -/
def alignWord (hi lo : Word) (bp : Nat) : Word :=
  if bp = 0 then lo else (lo <<< (8 * bp)) ||| (hi >>> (8 * (4 - bp)))

/-- `2^size - 1` as a word, `size` from 1 to 32. -/
def lowMask (size : Nat) : Word := BitVec.ofNat 32 (2 ^ size - 1)

/-- EXT's range check fails: `lsb + size > 32` with `size = msbd + 1` (R317). -/
def extOutOfRange (lsb msbd : Nat) : Bool := decide (lsb + (msbd + 1) > 32)

/-- `(v >> lsb) & (2^size - 1)` with `size = msbd + 1` (R318). -/
def extractField (v : Word) (lsb msbd : Nat) : Word := (v >>> lsb) &&& lowMask (msbd + 1)

/-- INS's range check fails: `size = msb - lsb + 1` is not positive (R317; spec/90_conflicts.md C6). -/
def insOutOfRange (lsb msb : Nat) : Bool := decide (msb < lsb)

/-- `(old & ~mask) | ((v << lsb) & mask)` with `mask = (2^size - 1) << lsb`, `size = msb - lsb + 1` (R319). -/
def insertField (old v : Word) (lsb msb : Nat) : Word :=
  let mask := lowMask (msb - lsb + 1) <<< lsb
  (old &&& ~~~mask) ||| ((v <<< lsb) &&& mask)

end Sys2Proof.Machine
end

