-- ==== Sys2Proof/Syntax.lean ====
section
/-! DEFINITION. The instructions as syntax: one constructor for each of the 99 rows of
spec/opcode_table.json (spec/30_encoding.md R112), in the table's order, with the operands the row lists, in
its order. Fields a row does not list are ignored by the hardware (R105) and do not stand here. The six
trap instructions also carry `code`, bits 15..6 of the word: the comparison ignores them, and they are part
of the raw word that a trap records (spec/42_special_muldiv_jump_trap.md R202; log entry 8). -/

namespace Sys2Proof

/-- One instruction of the core, its register and bit-position fields as numbers and its immediates as the
raw field bits. -/
inductive Instr where
  /-- SLL (R148). -/
  | sll (rd rt : Reg) (shamt : BitIndex)
  /-- SRL (R152). -/
  | srl (rd rt : Reg) (shamt : BitIndex)
  /-- ROTR (R153). -/
  | rotr (rd rt : Reg) (shamt : BitIndex)
  /-- SRA (R150). -/
  | sra (rd rt : Reg) (shamt : BitIndex)
  /-- SLLV (R149). -/
  | sllv (rd rt rs : Reg)
  /-- SRLV (R154). -/
  | srlv (rd rt rs : Reg)
  /-- ROTRV (R155). -/
  | rotrv (rd rt rs : Reg)
  /-- SRAV (R151). -/
  | srav (rd rt rs : Reg)
  /-- JR (R200). -/
  | jr (rs : Reg)
  /-- JALR (R201). -/
  | jalr (rs : Reg)
  /-- CLZ (R160). -/
  | clz (rd rs : Reg)
  /-- CLO (R161). -/
  | clo (rd rs : Reg)
  /-- MUL (R181). -/
  | mul (rd rs rt : Reg)
  /-- MUH (R182). -/
  | muh (rd rs rt : Reg)
  /-- MULU (R183). -/
  | mulu (rd rs rt : Reg)
  /-- MUHU (R184). -/
  | muhu (rd rs rt : Reg)
  /-- DIV (R185). -/
  | div (rd rs rt : Reg)
  /-- MOD (R186). -/
  | mod (rd rs rt : Reg)
  /-- DIVU (R187). -/
  | divu (rd rs rt : Reg)
  /-- MODU (R188). -/
  | modu (rd rs rt : Reg)
  /-- ADD (R140). -/
  | add (rd rs rt : Reg)
  /-- ADDU (R141). -/
  | addu (rd rs rt : Reg)
  /-- SUB (R142). -/
  | sub (rd rs rt : Reg)
  /-- SUBU (R143). -/
  | subu (rd rs rt : Reg)
  /-- AND (R144). -/
  | and (rd rs rt : Reg)
  /-- OR (R145). -/
  | or (rd rs rt : Reg)
  /-- XOR (R146). -/
  | xor (rd rs rt : Reg)
  /-- NOR (R147). -/
  | nor (rd rs rt : Reg)
  /-- SLT (R156). -/
  | slt (rd rs rt : Reg)
  /-- SLTU (R157). -/
  | sltu (rd rs rt : Reg)
  /-- TGE (R205). -/
  | tge (rs rt : Reg) (code : BitVec 10)
  /-- TGEU (R206). -/
  | tgeu (rs rt : Reg) (code : BitVec 10)
  /-- TLT (R207). -/
  | tlt (rs rt : Reg) (code : BitVec 10)
  /-- TLTU (R208). -/
  | tltu (rs rt : Reg) (code : BitVec 10)
  /-- TEQ (R203). -/
  | teq (rs rt : Reg) (code : BitVec 10)
  /-- SELEQZ (R158). -/
  | seleqz (rd rs rt : Reg)
  /-- TNE (R204). -/
  | tne (rs rt : Reg) (code : BitVec 10)
  /-- SELNEZ (R159). -/
  | selnez (rd rs rt : Reg)
  /-- BLTZ (R301). -/
  | bltz (rs : Reg) (imm : BitVec 16)
  /-- BGEZ (R302). -/
  | bgez (rs : Reg) (imm : BitVec 16)
  /-- J (R291). -/
  | j (address : BitVec 26)
  /-- JAL (R292). -/
  | jal (address : BitVec 26)
  /-- BEQ (R211). -/
  | beq (rs rt : Reg) (imm : BitVec 16)
  /-- BNE (R212). -/
  | bne (rs rt : Reg) (imm : BitVec 16)
  /-- BLEZ (R232). -/
  | blez (rs : Reg) (imm : BitVec 16)
  /-- BLEZALC (R233). -/
  | blezalc (rt : Reg) (imm : BitVec 16)
  /-- BGEZALC (R234). -/
  | bgezalc (rt : Reg) (imm : BitVec 16)
  /-- BGEUC (R235). -/
  | bgeuc (rs rt : Reg) (imm : BitVec 16)
  /-- BGTZ (R237). -/
  | bgtz (rs : Reg) (imm : BitVec 16)
  /-- BGTZALC (R238). -/
  | bgtzalc (rt : Reg) (imm : BitVec 16)
  /-- BLTZALC (R239). -/
  | bltzalc (rt : Reg) (imm : BitVec 16)
  /-- BLTUC (R240). -/
  | bltuc (rs rt : Reg) (imm : BitVec 16)
  /-- BEQZALC (R242). -/
  | beqzalc (rt : Reg) (imm : BitVec 16)
  /-- BEQC (R243). -/
  | beqc (rs rt : Reg) (imm : BitVec 16)
  /-- BOVC (R244). -/
  | bovc (rs rt : Reg) (imm : BitVec 16)
  /-- ADDIU (R213). -/
  | addiu (rt rs : Reg) (imm : BitVec 16)
  /-- SLTI (R215). -/
  | slti (rt rs : Reg) (imm : BitVec 16)
  /-- SLTIU (R216). -/
  | sltiu (rt rs : Reg) (imm : BitVec 16)
  /-- ANDI (R217). -/
  | andi (rt rs : Reg) (imm : BitVec 16)
  /-- ORI (R218). -/
  | ori (rt rs : Reg) (imm : BitVec 16)
  /-- XORI (R219). -/
  | xori (rt rs : Reg) (imm : BitVec 16)
  /-- AUI (R214). -/
  | aui (rt rs : Reg) (imm : BitVec 16)
  /-- COP1 (R336). -/
  | cop1
  /-- BLEZC (R251). -/
  | blezc (rt : Reg) (imm : BitVec 16)
  /-- BGEZC (R252). -/
  | bgezc (rt : Reg) (imm : BitVec 16)
  /-- BGEC (R253). -/
  | bgec (rs rt : Reg) (imm : BitVec 16)
  /-- POP26.NOP (R259). -/
  | pop26Nop
  /-- BGTZC (R255). -/
  | bgtzc (rt : Reg) (imm : BitVec 16)
  /-- BLTZC (R256). -/
  | bltzc (rt : Reg) (imm : BitVec 16)
  /-- BLTC (R257). -/
  | bltc (rs rt : Reg) (imm : BitVec 16)
  /-- POP27.NOP (R259). -/
  | pop27Nop
  /-- BNEZALC (R247). -/
  | bnezalc (rt : Reg) (imm : BitVec 16)
  /-- BNEC (R248). -/
  | bnec (rs rt : Reg) (imm : BitVec 16)
  /-- BNVC (R249). -/
  | bnvc (rs rt : Reg) (imm : BitVec 16)
  /-- EXT (R318). -/
  | ext (rt rs : Reg) (lsb msbd : BitIndex)
  /-- INS (R319). -/
  | ins (rt rs : Reg) (lsb msb : BitIndex)
  /-- BITSWAP (R311). -/
  | bitswap (rd rt : Reg)
  /-- WSBH (R312). -/
  | wsbh (rd rt : Reg)
  /-- ALIGN (R313). -/
  | align (rd rs rt : Reg) (bp : Fin 4)
  /-- SEB (R314). -/
  | seb (rd rt : Reg)
  /-- SEH (R315). -/
  | seh (rd rt : Reg)
  /-- LB (R272). -/
  | lb (rt : Reg) (imm : BitVec 16) (rs : Reg)
  /-- LH (R273). -/
  | lh (rt : Reg) (imm : BitVec 16) (rs : Reg)
  /-- LW (R274). -/
  | lw (rt : Reg) (imm : BitVec 16) (rs : Reg)
  /-- LBU (R275). -/
  | lbu (rt : Reg) (imm : BitVec 16) (rs : Reg)
  /-- LHU (R276). -/
  | lhu (rt : Reg) (imm : BitVec 16) (rs : Reg)
  /-- SB (R277). -/
  | sb (rt : Reg) (imm : BitVec 16) (rs : Reg)
  /-- SH (R278). -/
  | sh (rt : Reg) (imm : BitVec 16) (rs : Reg)
  /-- SW (R279). -/
  | sw (rt : Reg) (imm : BitVec 16) (rs : Reg)
  /-- BC (R293). -/
  | bc (address : BitVec 26)
  /-- JIC (R261). -/
  | jic (rt : Reg) (imm : BitVec 16)
  /-- BEQZC (R262). -/
  | beqzc (rs : Reg) (imm21 : BitVec 21)
  /-- BALC (R294). -/
  | balc (address : BitVec 26)
  /-- ADDIUPC (R332). -/
  | addiupc (rs : Reg) (imm19 : BitVec 19)
  /-- LWPC (R333). -/
  | lwpc (rs : Reg) (imm19 : BitVec 19)
  /-- AUIPC (R334). -/
  | auipc (rs : Reg) (imm : BitVec 16)
  /-- ALUIPC (R335). -/
  | aluipc (rs : Reg) (imm : BitVec 16)
  /-- JIALC (R264). -/
  | jialc (rt : Reg) (imm : BitVec 16)
  /-- BNEZC (R265). -/
  | bnezc (rs : Reg) (imm21 : BitVec 21)
deriving DecidableEq, Repr

end Sys2Proof
end

