-- ==== Sys2Proof/WellFormed.lean ====
section
/-! DEFINITION. Which terms of `Instr` are instructions of the machine: the selecting predicates of the POP
families, over register numbers (spec/30_encoding.md R104; spec/44_pop_compact.md R231, R236, R241, R246,
R250, R254, R260, R263). Every other constructor is an instruction at every value of its fields; the range
checks of EXT and INS are made when they run (spec/48_special3.md R317), not here. -/

namespace Sys2Proof

/-- The operands satisfy the predicate that selects this instruction among those sharing its opcode. A
one-register form that takes `rt` has `rs = 0` or `rs = rt` in its word, so only `rt != 0` is left to ask. -/
def Instr.wellFormed : Instr → Bool
  | .sll .. => true
  | .srl .. => true
  | .rotr .. => true
  | .sra .. => true
  | .sllv .. => true
  | .srlv .. => true
  | .rotrv .. => true
  | .srav .. => true
  | .jr .. => true
  | .jalr .. => true
  | .clz .. => true
  | .clo .. => true
  | .mul .. => true
  | .muh .. => true
  | .mulu .. => true
  | .muhu .. => true
  | .div .. => true
  | .mod .. => true
  | .divu .. => true
  | .modu .. => true
  | .add .. => true
  | .addu .. => true
  | .sub .. => true
  | .subu .. => true
  | .and .. => true
  | .or .. => true
  | .xor .. => true
  | .nor .. => true
  | .slt .. => true
  | .sltu .. => true
  | .tge .. => true
  | .tgeu .. => true
  | .tlt .. => true
  | .tltu .. => true
  | .teq .. => true
  | .seleqz .. => true
  | .tne .. => true
  | .selnez .. => true
  | .bltz .. => true
  | .bgez .. => true
  | .j .. => true
  | .jal .. => true
  | .beq .. => true
  | .bne .. => true
  | .blez .. => true
  | .blezalc rt _ => rt != 0
  | .bgezalc rt _ => rt != 0
  | .bgeuc rs rt _ => rs != 0 && rt != 0 && rs != rt
  | .bgtz .. => true
  | .bgtzalc rt _ => rt != 0
  | .bltzalc rt _ => rt != 0
  | .bltuc rs rt _ => rs != 0 && rt != 0 && rs != rt
  | .beqzalc rt _ => rt != 0
  | .beqc rs rt _ => rs != 0 && decide (rs < rt)
  | .bovc rs rt _ => decide (rt ≤ rs)
  | .addiu .. => true
  | .slti .. => true
  | .sltiu .. => true
  | .andi .. => true
  | .ori .. => true
  | .xori .. => true
  | .aui .. => true
  | .cop1 .. => true
  | .blezc rt _ => rt != 0
  | .bgezc rt _ => rt != 0
  | .bgec rs rt _ => rs != 0 && rt != 0 && rs != rt
  | .pop26Nop .. => true
  | .bgtzc rt _ => rt != 0
  | .bltzc rt _ => rt != 0
  | .bltc rs rt _ => rs != 0 && rt != 0 && rs != rt
  | .pop27Nop .. => true
  | .bnezalc rt _ => rt != 0
  | .bnec rs rt _ => rs != 0 && decide (rs < rt)
  | .bnvc rs rt _ => decide (rt ≤ rs)
  | .ext .. => true
  | .ins .. => true
  | .bitswap .. => true
  | .wsbh .. => true
  | .align .. => true
  | .seb .. => true
  | .seh .. => true
  | .lb .. => true
  | .lh .. => true
  | .lw .. => true
  | .lbu .. => true
  | .lhu .. => true
  | .sb .. => true
  | .sh .. => true
  | .sw .. => true
  | .bc .. => true
  | .jic .. => true
  | .beqzc rs _ => rs != 0
  | .balc .. => true
  | .addiupc .. => true
  | .lwpc .. => true
  | .auipc .. => true
  | .aluipc .. => true
  | .jialc .. => true
  | .bnezc rs _ => rs != 0

end Sys2Proof
end

