-- ==== Sys2Proof/Decode.lean ====
section
/-! DEFINITION. The decoder, a total function of the instruction word that refuses by name
(spec/30_encoding.md R80, R103, R106, R112), the encoder written from the same field views, and the opcode
table of spec/opcode_table.json as data. The numbers are those of R98 to R102. -/

namespace Sys2Proof

/-! ## Field views (R81 to R90) -/

/-- `op = w[31:26]`. -/
def opField (w : Word) : BitVec 6 := w.extractLsb' 26 6

/-- `rs = w[25:21]`, a register number. -/
def rsField (w : Word) : Reg := (w.extractLsb' 21 5).toFin

/-- `rt = w[20:16]`, a register number. -/
def rtField (w : Word) : Reg := (w.extractLsb' 16 5).toFin

/-- `rd = w[15:11]`, a register number. -/
def rdField (w : Word) : Reg := (w.extractLsb' 11 5).toFin

/-- `shamt = w[10:6]` as an amount. -/
def shamtField (w : Word) : BitIndex := (w.extractLsb' 6 5).toFin

/-- `func = w[5:0]`; the same bits are `minor` under SPECIAL3. -/
def funcField (w : Word) : BitVec 6 := w.extractLsb' 0 6

/-- `imm = w[15:0]`. -/
def immField (w : Word) : BitVec 16 := w.extractLsb' 0 16

/-- `imm21 = w[20:0]` (R83). -/
def imm21Field (w : Word) : BitVec 21 := w.extractLsb' 0 21

/-- `address = w[25:0]` (R84). -/
def addressField (w : Word) : BitVec 26 := w.extractLsb' 0 26

/-- `bfunc = w[10:6]` (R85); the same bits select among SOP30 to SOP33 (R99). -/
def bfuncField (w : Word) : BitVec 5 := w.extractLsb' 6 5

/-- `bp = w[7:6]` (R85). -/
def bpField (w : Word) : Fin 4 := (w.extractLsb' 6 2).toFin

/-- `msbd = msb = w[15:11]` as a bit position (R86). -/
def msbField (w : Word) : BitIndex := (w.extractLsb' 11 5).toFin

/-- `subop = w[20:16]` (R87); the same bits are `pfunc5` (R89). -/
def subopField (w : Word) : BitVec 5 := w.extractLsb' 16 5

/-- `pfunc2 = w[20:19]` (R88). -/
def pfunc2Field (w : Word) : BitVec 2 := w.extractLsb' 19 2

/-- `imm19 = w[18:0]` (R88). -/
def imm19Field (w : Word) : BitVec 19 := w.extractLsb' 0 19

/-- Bits 15..6 of a trap instruction, which only the recorded raw word shows (R202). -/
def codeField (w : Word) : BitVec 10 := w.extractLsb' 6 10

/-! ## Classification (R103, R108) -/

/-- The thirteen classes of R103. -/
inductive InstrClass where
  | rtype
  | itype
  | longimmItype
  | jtype
  | regimmItype
  | special3Bshfl
  | special3Ext
  | special3Ins
  | pcrelT1
  | pcrelT2
  | fpuRtype
  | fpuTtype
  | fpuBtype
deriving DecidableEq, Repr

/-- The class of a SPECIAL3 word, by `minor` (R101); `none` is decode-error. -/
def classifySpecial3 (w : Word) : Option InstrClass :=
  match funcField w with
  | 0#6 => some .special3Ext
  | 4#6 => some .special3Ins
  | 32#6 => some .special3Bshfl
  | _ => none

/-- The class of a PCREL word (R102); `none` is decode-error (D18). -/
def classifyPcrel (w : Word) : Option InstrClass :=
  match pfunc2Field w with
  | 0b00#2 => some .pcrelT1
  | 0b01#2 => some .pcrelT1
  | _ =>
    match subopField w with
    | 0b11110#5 => some .pcrelT2
    | 0b11111#5 => some .pcrelT2
    | _ => none

/-- The floating-point class of a COP1 word, by bits 25..21 (R108, D23). -/
def classifyCop1 (w : Word) : InstrClass :=
  match w.extractLsb' 21 5 with
  | 0#5 => .fpuTtype
  | 2#5 => .fpuTtype
  | 3#5 => .fpuTtype
  | 4#5 => .fpuTtype
  | 6#5 => .fpuTtype
  | 7#5 => .fpuTtype
  | 9#5 => .fpuBtype
  | 13#5 => .fpuBtype
  | _ => .fpuRtype

/-- The class of a word, or `none` for decode-error (R103, D13). -/
def classify (w : Word) : Option InstrClass :=
  match opField w with
  | 0#6 => some .rtype
  | 1#6 => some .regimmItype
  | 2#6 => some .jtype
  | 3#6 => some .jtype
  | 17#6 => some (classifyCop1 w)
  | 31#6 => classifySpecial3 w
  | 50#6 => some .jtype
  | 54#6 => some (if rsField w = 0 then .itype else .longimmItype)
  | 58#6 => some .jtype
  | 59#6 => classifyPcrel w
  | 62#6 => some (if rsField w = 0 then .itype else .longimmItype)
  | _ => some .itype

/-! ## The decoder -/

/-- Why a word selects no instruction (R106). -/
inductive Reject where
  /-- The classifier finds no class (SPECIAL3 `minor`, PCREL sub-operation). -/
  | decodeError
  /-- The handler does not know the `op`, `func`, `subop`, `bfunc` or SOP `shamt`. -/
  | unrecognisedOp
  /-- A SOP32 or SOP33 word whose `shamt` is not 2 or 3. The handler tests the divisor `x[rt]` before
  `shamt`, so the reason depends on that register (R180, R355; log entry 12). -/
  | unrecognisedDivide (rt : Reg)
deriving DecidableEq, Repr

/-- What decoding a word answers. -/
abbrev Decoded := Except Reject Instr

/-- SOP30 to SOP33: `shamt = 2` the low or quotient form, `shamt = 3` the high or remainder form, any other
`shamt` no instruction (R180, D8). -/
def decodeSop (w : Word) (low high : Reg → Reg → Reg → Instr) (other : Reject) : Decoded :=
  match bfuncField w with
  | 2#5 => .ok (low (rdField w) (rsField w) (rtField w))
  | 3#5 => .ok (high (rdField w) (rsField w) (rtField w))
  | _ => .error other

/-- The SPECIAL handler's `func` (R99). -/
def decodeRType (w : Word) : Decoded :=
  match funcField w with
  | 0#6 => .ok (.sll (rdField w) (rtField w) (shamtField w))
  | 2#6 =>
    if w.getLsbD 21 then .ok (.rotr (rdField w) (rtField w) (shamtField w))
    else .ok (.srl (rdField w) (rtField w) (shamtField w))
  | 3#6 => .ok (.sra (rdField w) (rtField w) (shamtField w))
  | 4#6 => .ok (.sllv (rdField w) (rtField w) (rsField w))
  | 6#6 =>
    if w.getLsbD 6 then .ok (.rotrv (rdField w) (rtField w) (rsField w))
    else .ok (.srlv (rdField w) (rtField w) (rsField w))
  | 7#6 => .ok (.srav (rdField w) (rtField w) (rsField w))
  | 8#6 => .ok (.jr (rsField w))
  | 9#6 => .ok (.jalr (rsField w))
  | 16#6 => .ok (.clz (rdField w) (rsField w))
  | 17#6 => .ok (.clo (rdField w) (rsField w))
  | 24#6 => decodeSop w .mul .muh .unrecognisedOp
  | 25#6 => decodeSop w .mulu .muhu .unrecognisedOp
  | 26#6 => decodeSop w .div .mod (.unrecognisedDivide (rtField w))
  | 27#6 => decodeSop w .divu .modu (.unrecognisedDivide (rtField w))
  | 32#6 => .ok (.add (rdField w) (rsField w) (rtField w))
  | 33#6 => .ok (.addu (rdField w) (rsField w) (rtField w))
  | 34#6 => .ok (.sub (rdField w) (rsField w) (rtField w))
  | 35#6 => .ok (.subu (rdField w) (rsField w) (rtField w))
  | 36#6 => .ok (.and (rdField w) (rsField w) (rtField w))
  | 37#6 => .ok (.or (rdField w) (rsField w) (rtField w))
  | 38#6 => .ok (.xor (rdField w) (rsField w) (rtField w))
  | 39#6 => .ok (.nor (rdField w) (rsField w) (rtField w))
  | 42#6 => .ok (.slt (rdField w) (rsField w) (rtField w))
  | 43#6 => .ok (.sltu (rdField w) (rsField w) (rtField w))
  | 48#6 => .ok (.tge (rsField w) (rtField w) (codeField w))
  | 49#6 => .ok (.tgeu (rsField w) (rtField w) (codeField w))
  | 50#6 => .ok (.tlt (rsField w) (rtField w) (codeField w))
  | 51#6 => .ok (.tltu (rsField w) (rtField w) (codeField w))
  | 52#6 => .ok (.teq (rsField w) (rtField w) (codeField w))
  | 53#6 => .ok (.seleqz (rdField w) (rsField w) (rtField w))
  | 54#6 => .ok (.tne (rsField w) (rtField w) (codeField w))
  | 55#6 => .ok (.selnez (rdField w) (rsField w) (rtField w))
  | _ => .error .unrecognisedOp

/-- The REGIMM handler's `subop` (R100). -/
def decodeRegimm (w : Word) : Decoded :=
  match subopField w with
  | 0#5 => .ok (.bltz (rsField w) (immField w))
  | 1#5 => .ok (.bgez (rsField w) (immField w))
  | _ => .error .unrecognisedOp

/-- POP06 (R231). -/
def decodePop06 (w : Word) : Instr :=
  if rtField w = 0 then .blez (rsField w) (immField w)
  else if rsField w = 0 then .blezalc (rtField w) (immField w)
  else if rsField w = rtField w then .bgezalc (rtField w) (immField w)
  else .bgeuc (rsField w) (rtField w) (immField w)

/-- POP07 (R236). -/
def decodePop07 (w : Word) : Instr :=
  if rtField w = 0 then .bgtz (rsField w) (immField w)
  else if rsField w = 0 then .bgtzalc (rtField w) (immField w)
  else if rsField w = rtField w then .bltzalc (rtField w) (immField w)
  else .bltuc (rsField w) (rtField w) (immField w)

/-- POP10 (R241). -/
def decodePop10 (w : Word) : Instr :=
  if rsField w = 0 ∧ rtField w ≠ 0 then .beqzalc (rtField w) (immField w)
  else if rsField w < rtField w then .beqc (rsField w) (rtField w) (immField w)
  else .bovc (rsField w) (rtField w) (immField w)

/-- POP30 (R246). -/
def decodePop30 (w : Word) : Instr :=
  if rsField w = 0 ∧ rtField w ≠ 0 then .bnezalc (rtField w) (immField w)
  else if rsField w < rtField w then .bnec (rsField w) (rtField w) (immField w)
  else .bnvc (rsField w) (rtField w) (immField w)

/-- POP26 (R250). -/
def decodePop26 (w : Word) : Instr :=
  if rtField w = 0 then .pop26Nop
  else if rsField w = 0 then .blezc (rtField w) (immField w)
  else if rsField w = rtField w then .bgezc (rtField w) (immField w)
  else .bgec (rsField w) (rtField w) (immField w)

/-- POP27 (R254). -/
def decodePop27 (w : Word) : Instr :=
  if rtField w = 0 then .pop27Nop
  else if rsField w = 0 then .bgtzc (rtField w) (immField w)
  else if rsField w = rtField w then .bltzc (rtField w) (immField w)
  else .bltc (rsField w) (rtField w) (immField w)

/-- The I-type handlers' `op`: the memory handler, then the rest (R98, R124). -/
def decodeIType (w : Word) : Decoded :=
  match opField w with
  | 4#6 => .ok (.beq (rsField w) (rtField w) (immField w))
  | 5#6 => .ok (.bne (rsField w) (rtField w) (immField w))
  | 6#6 => .ok (decodePop06 w)
  | 7#6 => .ok (decodePop07 w)
  | 8#6 => .ok (decodePop10 w)
  | 9#6 => .ok (.addiu (rtField w) (rsField w) (immField w))
  | 10#6 => .ok (.slti (rtField w) (rsField w) (immField w))
  | 11#6 => .ok (.sltiu (rtField w) (rsField w) (immField w))
  | 12#6 => .ok (.andi (rtField w) (rsField w) (immField w))
  | 13#6 => .ok (.ori (rtField w) (rsField w) (immField w))
  | 14#6 => .ok (.xori (rtField w) (rsField w) (immField w))
  | 15#6 => .ok (.aui (rtField w) (rsField w) (immField w))
  | 22#6 => .ok (decodePop26 w)
  | 23#6 => .ok (decodePop27 w)
  | 24#6 => .ok (decodePop30 w)
  | 32#6 => .ok (.lb (rtField w) (immField w) (rsField w))
  | 33#6 => .ok (.lh (rtField w) (immField w) (rsField w))
  | 35#6 => .ok (.lw (rtField w) (immField w) (rsField w))
  | 36#6 => .ok (.lbu (rtField w) (immField w) (rsField w))
  | 37#6 => .ok (.lhu (rtField w) (immField w) (rsField w))
  | 40#6 => .ok (.sb (rtField w) (immField w) (rsField w))
  | 41#6 => .ok (.sh (rtField w) (immField w) (rsField w))
  | 43#6 => .ok (.sw (rtField w) (immField w) (rsField w))
  | 54#6 => .ok (.jic (rtField w) (immField w))
  | 62#6 => .ok (.jialc (rtField w) (immField w))
  | _ => .error .unrecognisedOp

/-- The long-immediate handler: BEQZC and BNEZC (R260, R263). -/
def decodeLongImm (w : Word) : Decoded :=
  match opField w with
  | 54#6 => .ok (.beqzc (rsField w) (imm21Field w))
  | 62#6 => .ok (.bnezc (rsField w) (imm21Field w))
  | _ => .error .unrecognisedOp

/-- The J-type handler (R98); its last line is unreachable (spec/46_jtype.md R290). -/
def decodeJType (w : Word) : Decoded :=
  match opField w with
  | 2#6 => .ok (.j (addressField w))
  | 3#6 => .ok (.jal (addressField w))
  | 50#6 => .ok (.bc (addressField w))
  | 58#6 => .ok (.balc (addressField w))
  | _ => .error .unrecognisedOp

/-- The BSHFL handler's `bfunc` (R101). -/
def decodeBshfl (w : Word) : Decoded :=
  match bfuncField w with
  | 0#5 => .ok (.bitswap (rdField w) (rtField w))
  | 2#5 => .ok (.wsbh (rdField w) (rtField w))
  | 8#5 => .ok (.align (rdField w) (rsField w) (rtField w) (bpField w))
  | 9#5 => .ok (.align (rdField w) (rsField w) (rtField w) (bpField w))
  | 10#5 => .ok (.align (rdField w) (rsField w) (rtField w) (bpField w))
  | 11#5 => .ok (.align (rdField w) (rsField w) (rtField w) (bpField w))
  | 16#5 => .ok (.seb (rdField w) (rtField w))
  | 24#5 => .ok (.seh (rdField w) (rtField w))
  | _ => .error .unrecognisedOp

/-- PC-relative type 1 (R102). -/
def decodePcrel1 (w : Word) : Decoded :=
  match pfunc2Field w with
  | 0b00#2 => .ok (.addiupc (rsField w) (imm19Field w))
  | 0b01#2 => .ok (.lwpc (rsField w) (imm19Field w))
  | _ => .error .decodeError

/-- PC-relative type 2 (R102). -/
def decodePcrel2 (w : Word) : Decoded :=
  match subopField w with
  | 0b11110#5 => .ok (.auipc (rsField w) (immField w))
  | 0b11111#5 => .ok (.aluipc (rsField w) (immField w))
  | _ => .error .decodeError

/-- What each class's handler reads from the word (R124). -/
def decodeClass (w : Word) : InstrClass → Decoded
  | .rtype => decodeRType w
  | .itype => decodeIType w
  | .longimmItype => decodeLongImm w
  | .jtype => decodeJType w
  | .regimmItype => decodeRegimm w
  | .special3Bshfl => decodeBshfl w
  | .special3Ext => .ok (.ext (rtField w) (rsField w) (shamtField w) (msbField w))
  | .special3Ins => .ok (.ins (rtField w) (rsField w) (shamtField w) (msbField w))
  | .pcrelT1 => decodePcrel1 w
  | .pcrelT2 => decodePcrel2 w
  | .fpuRtype => .ok .cop1
  | .fpuTtype => .ok .cop1
  | .fpuBtype => .ok .cop1

/-- The decoder: classify, then the class's handler (R103, R112). -/
def decode (w : Word) : Decoded :=
  match classify w with
  | none => .error .decodeError
  | some c => decodeClass w c

/-- What the decoder reads from the `nbits` low bits of `w`, the rest 0. Every row has 32 bits, and the word
a memory hands back does not depend on its byte order (spec/20_memory.md R53), so the bits are the word. -/
def decodeTableWord (nbits w : Nat) : Option Instr :=
  (decode (BitVec.ofNat 32 (w % 2 ^ nbits))).toOption

/-! ## The encoder -/

/-- A register number or bit position as its 5-bit field. -/
def fiveBits (r : Fin 32) : BitVec 5 := BitVec.ofFin r

/-- The R-type view (R81), also BSHFL (R85) and EXT, INS (R86). -/
def rWord (op : BitVec 6) (rs rt rd sh : BitVec 5) (func : BitVec 6) : Word :=
  op ++ rs ++ rt ++ rd ++ sh ++ func

/-- The I-type view (R82), also REGIMM (R87) and PC-relative type 2 (R89). -/
def iWord (op : BitVec 6) (rs rt : BitVec 5) (imm : BitVec 16) : Word := op ++ rs ++ rt ++ imm

/-- The long-immediate view (R83). -/
def longWord (op : BitVec 6) (rs : BitVec 5) (imm21 : BitVec 21) : Word := op ++ rs ++ imm21

/-- The J-type view (R84). -/
def jWord (op : BitVec 6) (address : BitVec 26) : Word := op ++ address

/-- PC-relative type 1 (R88). -/
def pcrelWord (rs : BitVec 5) (pfunc2 : BitVec 2) (imm19 : BitVec 19) : Word :=
  59#6 ++ rs ++ pfunc2 ++ imm19

/-- A SPECIAL word with register operands and its `shamt` field. -/
def specialWord (rs rt rd sh : Fin 32) (func : BitVec 6) : Word :=
  rWord 0#6 (fiveBits rs) (fiveBits rt) (fiveBits rd) (fiveBits sh) func

/-- A trap instruction's word: bits 15..6 are its `code` (R202). -/
def trapWord (rs rt : Reg) (code : BitVec 10) (func : BitVec 6) : Word :=
  0#6 ++ fiveBits rs ++ fiveBits rt ++ code ++ func

/-- An I-type word with register operands. -/
def immWord (op : BitVec 6) (rs rt : Reg) (imm : BitVec 16) : Word :=
  iWord op (fiveBits rs) (fiveBits rt) imm

/-- A SPECIAL3 word. -/
def special3Word (rs rt rd : Fin 32) (sh : BitVec 5) (minor : BitVec 6) : Word :=
  rWord 31#6 (fiveBits rs) (fiveBits rt) (fiveBits rd) sh minor

/-- The word of a well-formed instruction. Fields the instruction ignores (R105) are encoded as 0 (DESIGN
CHOICE, log entry 18; safe: any other value decodes to the same instruction), but for the two forms
the spec's own examples use: JALR with `rd = 31` (R201) and CLZ, CLO with `shamt = 1` (R160, R161). -/
def encode : Instr → Word
  | .sll rd rt shamt => specialWord 0 rt rd shamt 0#6
  | .srl rd rt shamt => specialWord 0 rt rd shamt 2#6
  | .rotr rd rt shamt => specialWord 1 rt rd shamt 2#6
  | .sra rd rt shamt => specialWord 0 rt rd shamt 3#6
  | .sllv rd rt rs => specialWord rs rt rd 0 4#6
  | .srlv rd rt rs => specialWord rs rt rd 0 6#6
  | .rotrv rd rt rs => specialWord rs rt rd 1 6#6
  | .srav rd rt rs => specialWord rs rt rd 0 7#6
  | .jr rs => specialWord rs 0 0 0 8#6
  | .jalr rs => specialWord rs 0 31 0 9#6
  | .clz rd rs => specialWord rs 0 rd 1 16#6
  | .clo rd rs => specialWord rs 0 rd 1 17#6
  | .mul rd rs rt => specialWord rs rt rd 2 24#6
  | .muh rd rs rt => specialWord rs rt rd 3 24#6
  | .mulu rd rs rt => specialWord rs rt rd 2 25#6
  | .muhu rd rs rt => specialWord rs rt rd 3 25#6
  | .div rd rs rt => specialWord rs rt rd 2 26#6
  | .mod rd rs rt => specialWord rs rt rd 3 26#6
  | .divu rd rs rt => specialWord rs rt rd 2 27#6
  | .modu rd rs rt => specialWord rs rt rd 3 27#6
  | .add rd rs rt => specialWord rs rt rd 0 32#6
  | .addu rd rs rt => specialWord rs rt rd 0 33#6
  | .sub rd rs rt => specialWord rs rt rd 0 34#6
  | .subu rd rs rt => specialWord rs rt rd 0 35#6
  | .and rd rs rt => specialWord rs rt rd 0 36#6
  | .or rd rs rt => specialWord rs rt rd 0 37#6
  | .xor rd rs rt => specialWord rs rt rd 0 38#6
  | .nor rd rs rt => specialWord rs rt rd 0 39#6
  | .slt rd rs rt => specialWord rs rt rd 0 42#6
  | .sltu rd rs rt => specialWord rs rt rd 0 43#6
  | .tge rs rt code => trapWord rs rt code 48#6
  | .tgeu rs rt code => trapWord rs rt code 49#6
  | .tlt rs rt code => trapWord rs rt code 50#6
  | .tltu rs rt code => trapWord rs rt code 51#6
  | .teq rs rt code => trapWord rs rt code 52#6
  | .seleqz rd rs rt => specialWord rs rt rd 0 53#6
  | .tne rs rt code => trapWord rs rt code 54#6
  | .selnez rd rs rt => specialWord rs rt rd 0 55#6
  | .bltz rs imm => immWord 1#6 rs 0 imm
  | .bgez rs imm => immWord 1#6 rs 1 imm
  | .j address => jWord 2#6 address
  | .jal address => jWord 3#6 address
  | .beq rs rt imm => immWord 4#6 rs rt imm
  | .bne rs rt imm => immWord 5#6 rs rt imm
  | .blez rs imm => immWord 6#6 rs 0 imm
  | .blezalc rt imm => immWord 6#6 0 rt imm
  | .bgezalc rt imm => immWord 6#6 rt rt imm
  | .bgeuc rs rt imm => immWord 6#6 rs rt imm
  | .bgtz rs imm => immWord 7#6 rs 0 imm
  | .bgtzalc rt imm => immWord 7#6 0 rt imm
  | .bltzalc rt imm => immWord 7#6 rt rt imm
  | .bltuc rs rt imm => immWord 7#6 rs rt imm
  | .beqzalc rt imm => immWord 8#6 0 rt imm
  | .beqc rs rt imm => immWord 8#6 rs rt imm
  | .bovc rs rt imm => immWord 8#6 rs rt imm
  | .addiu rt rs imm => immWord 9#6 rs rt imm
  | .slti rt rs imm => immWord 10#6 rs rt imm
  | .sltiu rt rs imm => immWord 11#6 rs rt imm
  | .andi rt rs imm => immWord 12#6 rs rt imm
  | .ori rt rs imm => immWord 13#6 rs rt imm
  | .xori rt rs imm => immWord 14#6 rs rt imm
  | .aui rt rs imm => immWord 15#6 rs rt imm
  | .cop1 => iWord 17#6 0#5 0#5 0#16
  | .blezc rt imm => immWord 22#6 0 rt imm
  | .bgezc rt imm => immWord 22#6 rt rt imm
  | .bgec rs rt imm => immWord 22#6 rs rt imm
  | .pop26Nop => iWord 22#6 0#5 0#5 0#16
  | .bgtzc rt imm => immWord 23#6 0 rt imm
  | .bltzc rt imm => immWord 23#6 rt rt imm
  | .bltc rs rt imm => immWord 23#6 rs rt imm
  | .pop27Nop => iWord 23#6 0#5 0#5 0#16
  | .bnezalc rt imm => immWord 24#6 0 rt imm
  | .bnec rs rt imm => immWord 24#6 rs rt imm
  | .bnvc rs rt imm => immWord 24#6 rs rt imm
  | .ext rt rs lsb msbd => special3Word rs rt msbd (fiveBits lsb) 0#6
  | .ins rt rs lsb msb => special3Word rs rt msb (fiveBits lsb) 4#6
  | .bitswap rd rt => special3Word 0 rt rd 0#5 32#6
  | .wsbh rd rt => special3Word 0 rt rd 2#5 32#6
  | .align rd rs rt bp => special3Word rs rt rd (0b010#3 ++ BitVec.ofFin (w := 2) bp) 32#6
  | .seb rd rt => special3Word 0 rt rd 16#5 32#6
  | .seh rd rt => special3Word 0 rt rd 24#5 32#6
  | .lb rt imm rs => immWord 32#6 rs rt imm
  | .lh rt imm rs => immWord 33#6 rs rt imm
  | .lw rt imm rs => immWord 35#6 rs rt imm
  | .lbu rt imm rs => immWord 36#6 rs rt imm
  | .lhu rt imm rs => immWord 37#6 rs rt imm
  | .sb rt imm rs => immWord 40#6 rs rt imm
  | .sh rt imm rs => immWord 41#6 rs rt imm
  | .sw rt imm rs => immWord 43#6 rs rt imm
  | .bc address => jWord 50#6 address
  | .jic rt imm => immWord 54#6 0 rt imm
  | .beqzc rs imm21 => longWord 54#6 (fiveBits rs) imm21
  | .balc address => jWord 58#6 address
  | .addiupc rs imm19 => pcrelWord (fiveBits rs) 0b00#2 imm19
  | .lwpc rs imm19 => pcrelWord (fiveBits rs) 0b01#2 imm19
  | .auipc rs imm => iWord 59#6 (fiveBits rs) 0b11110#5 imm
  | .aluipc rs imm => iWord 59#6 (fiveBits rs) 0b11111#5 imm
  | .jialc rt imm => immWord 62#6 0 rt imm
  | .bnezc rs imm21 => longWord 62#6 (fiveBits rs) imm21

/-! ## The opcode table (spec/opcode_table.json; R112) -/

/-- A row's `constraint`: a predicate over the register numbers in the `rs` and `rt` fields. -/
inductive Constraint where
  | any
  | rtZero
  | rsZeroRtNonzero
  | equalNonzero
  | distinctNonzero
  | rsNonzeroLtRt
  | rsGeRt
  | rsZero
  | rsNonzero
deriving DecidableEq, Repr

/-- The predicate is true of the two field values. -/
def Constraint.holds (rs rt : Reg) : Constraint → Bool
  | .any => true
  | .rtZero => rt == 0
  | .rsZeroRtNonzero => rs == 0 && rt != 0
  | .equalNonzero => rs == rt && rt != 0
  | .distinctNonzero => rs != 0 && rt != 0 && rs != rt
  | .rsNonzeroLtRt => rs != 0 && decide (rs < rt)
  | .rsGeRt => decide (rt ≤ rs)
  | .rsZero => rs == 0
  | .rsNonzero => rs != 0

/-- A row of the opcode table: its mnemonic, `match`, `mask` and `constraint`, and the bits of the fields
it lists as operands. The trap rows' `operands` also hold bits 15..6, which the recorded word shows (R202). -/
structure Row where
  mnemonic : String
  pattern : Word
  mask : Word
  constraint : Constraint
  operands : Word
deriving DecidableEq, Repr

/-- The row selects the word: `(w AND mask) = match` and the constraint is true (R112). -/
def Row.selects (row : Row) (w : Word) : Bool :=
  w &&& row.mask == row.pattern && row.constraint.holds (rsField w) (rtField w)

/-- Rows 1 to 20 of the opcode table. -/
def opcodeTable1 : List Row :=
  [ ⟨"SLL", 0x00000000#32, 0xFC00003F#32, .any, 0x001FFFC0#32⟩,
    ⟨"SRL", 0x00000002#32, 0xFC20003F#32, .any, 0x001FFFC0#32⟩,
    ⟨"ROTR", 0x00200002#32, 0xFC20003F#32, .any, 0x001FFFC0#32⟩,
    ⟨"SRA", 0x00000003#32, 0xFC00003F#32, .any, 0x001FFFC0#32⟩,
    ⟨"SLLV", 0x00000004#32, 0xFC00003F#32, .any, 0x03FFF800#32⟩,
    ⟨"SRLV", 0x00000006#32, 0xFC00007F#32, .any, 0x03FFF800#32⟩,
    ⟨"ROTRV", 0x00000046#32, 0xFC00007F#32, .any, 0x03FFF800#32⟩,
    ⟨"SRAV", 0x00000007#32, 0xFC00003F#32, .any, 0x03FFF800#32⟩,
    ⟨"JR", 0x00000008#32, 0xFC00003F#32, .any, 0x03E00000#32⟩,
    ⟨"JALR", 0x00000009#32, 0xFC00003F#32, .any, 0x03E00000#32⟩,
    ⟨"CLZ", 0x00000010#32, 0xFC00003F#32, .any, 0x03E0F800#32⟩,
    ⟨"CLO", 0x00000011#32, 0xFC00003F#32, .any, 0x03E0F800#32⟩,
    ⟨"MUL", 0x00000098#32, 0xFC0007FF#32, .any, 0x03FFF800#32⟩,
    ⟨"MUH", 0x000000D8#32, 0xFC0007FF#32, .any, 0x03FFF800#32⟩,
    ⟨"MULU", 0x00000099#32, 0xFC0007FF#32, .any, 0x03FFF800#32⟩,
    ⟨"MUHU", 0x000000D9#32, 0xFC0007FF#32, .any, 0x03FFF800#32⟩,
    ⟨"DIV", 0x0000009A#32, 0xFC0007FF#32, .any, 0x03FFF800#32⟩,
    ⟨"MOD", 0x000000DA#32, 0xFC0007FF#32, .any, 0x03FFF800#32⟩,
    ⟨"DIVU", 0x0000009B#32, 0xFC0007FF#32, .any, 0x03FFF800#32⟩,
    ⟨"MODU", 0x000000DB#32, 0xFC0007FF#32, .any, 0x03FFF800#32⟩ ]

/-- Rows 21 to 40 of the opcode table. -/
def opcodeTable2 : List Row :=
  [ ⟨"ADD", 0x00000020#32, 0xFC00003F#32, .any, 0x03FFF800#32⟩,
    ⟨"ADDU", 0x00000021#32, 0xFC00003F#32, .any, 0x03FFF800#32⟩,
    ⟨"SUB", 0x00000022#32, 0xFC00003F#32, .any, 0x03FFF800#32⟩,
    ⟨"SUBU", 0x00000023#32, 0xFC00003F#32, .any, 0x03FFF800#32⟩,
    ⟨"AND", 0x00000024#32, 0xFC00003F#32, .any, 0x03FFF800#32⟩,
    ⟨"OR", 0x00000025#32, 0xFC00003F#32, .any, 0x03FFF800#32⟩,
    ⟨"XOR", 0x00000026#32, 0xFC00003F#32, .any, 0x03FFF800#32⟩,
    ⟨"NOR", 0x00000027#32, 0xFC00003F#32, .any, 0x03FFF800#32⟩,
    ⟨"SLT", 0x0000002A#32, 0xFC00003F#32, .any, 0x03FFF800#32⟩,
    ⟨"SLTU", 0x0000002B#32, 0xFC00003F#32, .any, 0x03FFF800#32⟩,
    ⟨"TGE", 0x00000030#32, 0xFC00003F#32, .any, 0x03FFFFC0#32⟩,
    ⟨"TGEU", 0x00000031#32, 0xFC00003F#32, .any, 0x03FFFFC0#32⟩,
    ⟨"TLT", 0x00000032#32, 0xFC00003F#32, .any, 0x03FFFFC0#32⟩,
    ⟨"TLTU", 0x00000033#32, 0xFC00003F#32, .any, 0x03FFFFC0#32⟩,
    ⟨"TEQ", 0x00000034#32, 0xFC00003F#32, .any, 0x03FFFFC0#32⟩,
    ⟨"SELEQZ", 0x00000035#32, 0xFC00003F#32, .any, 0x03FFF800#32⟩,
    ⟨"TNE", 0x00000036#32, 0xFC00003F#32, .any, 0x03FFFFC0#32⟩,
    ⟨"SELNEZ", 0x00000037#32, 0xFC00003F#32, .any, 0x03FFF800#32⟩,
    ⟨"BLTZ", 0x04000000#32, 0xFC1F0000#32, .any, 0x03E0FFFF#32⟩,
    ⟨"BGEZ", 0x04010000#32, 0xFC1F0000#32, .any, 0x03E0FFFF#32⟩ ]

/-- Rows 41 to 60 of the opcode table. -/
def opcodeTable3 : List Row :=
  [ ⟨"J", 0x08000000#32, 0xFC000000#32, .any, 0x03FFFFFF#32⟩,
    ⟨"JAL", 0x0C000000#32, 0xFC000000#32, .any, 0x03FFFFFF#32⟩,
    ⟨"BEQ", 0x10000000#32, 0xFC000000#32, .any, 0x03FFFFFF#32⟩,
    ⟨"BNE", 0x14000000#32, 0xFC000000#32, .any, 0x03FFFFFF#32⟩,
    ⟨"BLEZ", 0x18000000#32, 0xFC1F0000#32, .rtZero, 0x03E0FFFF#32⟩,
    ⟨"BLEZALC", 0x18000000#32, 0xFFE00000#32, .rsZeroRtNonzero, 0x001FFFFF#32⟩,
    ⟨"BGEZALC", 0x18000000#32, 0xFC000000#32, .equalNonzero, 0x001FFFFF#32⟩,
    ⟨"BGEUC", 0x18000000#32, 0xFC000000#32, .distinctNonzero, 0x03FFFFFF#32⟩,
    ⟨"BGTZ", 0x1C000000#32, 0xFC1F0000#32, .rtZero, 0x03E0FFFF#32⟩,
    ⟨"BGTZALC", 0x1C000000#32, 0xFFE00000#32, .rsZeroRtNonzero, 0x001FFFFF#32⟩,
    ⟨"BLTZALC", 0x1C000000#32, 0xFC000000#32, .equalNonzero, 0x001FFFFF#32⟩,
    ⟨"BLTUC", 0x1C000000#32, 0xFC000000#32, .distinctNonzero, 0x03FFFFFF#32⟩,
    ⟨"BEQZALC", 0x20000000#32, 0xFFE00000#32, .rsZeroRtNonzero, 0x001FFFFF#32⟩,
    ⟨"BEQC", 0x20000000#32, 0xFC000000#32, .rsNonzeroLtRt, 0x03FFFFFF#32⟩,
    ⟨"BOVC", 0x20000000#32, 0xFC000000#32, .rsGeRt, 0x03FFFFFF#32⟩,
    ⟨"ADDIU", 0x24000000#32, 0xFC000000#32, .any, 0x03FFFFFF#32⟩,
    ⟨"SLTI", 0x28000000#32, 0xFC000000#32, .any, 0x03FFFFFF#32⟩,
    ⟨"SLTIU", 0x2C000000#32, 0xFC000000#32, .any, 0x03FFFFFF#32⟩,
    ⟨"ANDI", 0x30000000#32, 0xFC000000#32, .any, 0x03FFFFFF#32⟩,
    ⟨"ORI", 0x34000000#32, 0xFC000000#32, .any, 0x03FFFFFF#32⟩ ]

/-- Rows 61 to 80 of the opcode table. -/
def opcodeTable4 : List Row :=
  [ ⟨"XORI", 0x38000000#32, 0xFC000000#32, .any, 0x03FFFFFF#32⟩,
    ⟨"AUI", 0x3C000000#32, 0xFC000000#32, .any, 0x03FFFFFF#32⟩,
    ⟨"COP1", 0x44000000#32, 0xFC000000#32, .any, 0x00000000#32⟩,
    ⟨"BLEZC", 0x58000000#32, 0xFFE00000#32, .rsZeroRtNonzero, 0x001FFFFF#32⟩,
    ⟨"BGEZC", 0x58000000#32, 0xFC000000#32, .equalNonzero, 0x001FFFFF#32⟩,
    ⟨"BGEC", 0x58000000#32, 0xFC000000#32, .distinctNonzero, 0x03FFFFFF#32⟩,
    ⟨"POP26.NOP", 0x58000000#32, 0xFC1F0000#32, .rtZero, 0x00000000#32⟩,
    ⟨"BGTZC", 0x5C000000#32, 0xFFE00000#32, .rsZeroRtNonzero, 0x001FFFFF#32⟩,
    ⟨"BLTZC", 0x5C000000#32, 0xFC000000#32, .equalNonzero, 0x001FFFFF#32⟩,
    ⟨"BLTC", 0x5C000000#32, 0xFC000000#32, .distinctNonzero, 0x03FFFFFF#32⟩,
    ⟨"POP27.NOP", 0x5C000000#32, 0xFC1F0000#32, .rtZero, 0x00000000#32⟩,
    ⟨"BNEZALC", 0x60000000#32, 0xFFE00000#32, .rsZeroRtNonzero, 0x001FFFFF#32⟩,
    ⟨"BNEC", 0x60000000#32, 0xFC000000#32, .rsNonzeroLtRt, 0x03FFFFFF#32⟩,
    ⟨"BNVC", 0x60000000#32, 0xFC000000#32, .rsGeRt, 0x03FFFFFF#32⟩,
    ⟨"EXT", 0x7C000000#32, 0xFC00003F#32, .any, 0x03FFFFC0#32⟩,
    ⟨"INS", 0x7C000004#32, 0xFC00003F#32, .any, 0x03FFFFC0#32⟩,
    ⟨"BITSWAP", 0x7C000020#32, 0xFC0007FF#32, .any, 0x001FF800#32⟩,
    ⟨"WSBH", 0x7C0000A0#32, 0xFC0007FF#32, .any, 0x001FF800#32⟩,
    ⟨"ALIGN", 0x7C000220#32, 0xFC00073F#32, .any, 0x03FFF8C0#32⟩,
    ⟨"SEB", 0x7C000420#32, 0xFC0007FF#32, .any, 0x001FF800#32⟩ ]

/-- Rows 81 to 99 of the opcode table. -/
def opcodeTable5 : List Row :=
  [ ⟨"SEH", 0x7C000620#32, 0xFC0007FF#32, .any, 0x001FF800#32⟩,
    ⟨"LB", 0x80000000#32, 0xFC000000#32, .any, 0x03FFFFFF#32⟩,
    ⟨"LH", 0x84000000#32, 0xFC000000#32, .any, 0x03FFFFFF#32⟩,
    ⟨"LW", 0x8C000000#32, 0xFC000000#32, .any, 0x03FFFFFF#32⟩,
    ⟨"LBU", 0x90000000#32, 0xFC000000#32, .any, 0x03FFFFFF#32⟩,
    ⟨"LHU", 0x94000000#32, 0xFC000000#32, .any, 0x03FFFFFF#32⟩,
    ⟨"SB", 0xA0000000#32, 0xFC000000#32, .any, 0x03FFFFFF#32⟩,
    ⟨"SH", 0xA4000000#32, 0xFC000000#32, .any, 0x03FFFFFF#32⟩,
    ⟨"SW", 0xAC000000#32, 0xFC000000#32, .any, 0x03FFFFFF#32⟩,
    ⟨"BC", 0xC8000000#32, 0xFC000000#32, .any, 0x03FFFFFF#32⟩,
    ⟨"JIC", 0xD8000000#32, 0xFFE00000#32, .rsZero, 0x001FFFFF#32⟩,
    ⟨"BEQZC", 0xD8000000#32, 0xFC000000#32, .rsNonzero, 0x03FFFFFF#32⟩,
    ⟨"BALC", 0xE8000000#32, 0xFC000000#32, .any, 0x03FFFFFF#32⟩,
    ⟨"ADDIUPC", 0xEC000000#32, 0xFC180000#32, .any, 0x03E7FFFF#32⟩,
    ⟨"LWPC", 0xEC080000#32, 0xFC180000#32, .any, 0x03E7FFFF#32⟩,
    ⟨"AUIPC", 0xEC1E0000#32, 0xFC1F0000#32, .any, 0x03E0FFFF#32⟩,
    ⟨"ALUIPC", 0xEC1F0000#32, 0xFC1F0000#32, .any, 0x03E0FFFF#32⟩,
    ⟨"JIALC", 0xF8000000#32, 0xFFE00000#32, .rsZero, 0x001FFFFF#32⟩,
    ⟨"BNEZC", 0xF8000000#32, 0xFC000000#32, .rsNonzero, 0x03FFFFFF#32⟩ ]

/-- The 99 rows, in the order of spec/opcode_table.json. -/
def opcodeTable : List Row :=
  opcodeTable1 ++ opcodeTable2 ++ opcodeTable3 ++ opcodeTable4 ++ opcodeTable5

/-- The mnemonic of an instruction, as the table spells it. -/
def Instr.mnemonic : Instr → String
  | .sll .. => "SLL"
  | .srl .. => "SRL"
  | .rotr .. => "ROTR"
  | .sra .. => "SRA"
  | .sllv .. => "SLLV"
  | .srlv .. => "SRLV"
  | .rotrv .. => "ROTRV"
  | .srav .. => "SRAV"
  | .jr .. => "JR"
  | .jalr .. => "JALR"
  | .clz .. => "CLZ"
  | .clo .. => "CLO"
  | .mul .. => "MUL"
  | .muh .. => "MUH"
  | .mulu .. => "MULU"
  | .muhu .. => "MUHU"
  | .div .. => "DIV"
  | .mod .. => "MOD"
  | .divu .. => "DIVU"
  | .modu .. => "MODU"
  | .add .. => "ADD"
  | .addu .. => "ADDU"
  | .sub .. => "SUB"
  | .subu .. => "SUBU"
  | .and .. => "AND"
  | .or .. => "OR"
  | .xor .. => "XOR"
  | .nor .. => "NOR"
  | .slt .. => "SLT"
  | .sltu .. => "SLTU"
  | .tge .. => "TGE"
  | .tgeu .. => "TGEU"
  | .tlt .. => "TLT"
  | .tltu .. => "TLTU"
  | .teq .. => "TEQ"
  | .seleqz .. => "SELEQZ"
  | .tne .. => "TNE"
  | .selnez .. => "SELNEZ"
  | .bltz .. => "BLTZ"
  | .bgez .. => "BGEZ"
  | .j .. => "J"
  | .jal .. => "JAL"
  | .beq .. => "BEQ"
  | .bne .. => "BNE"
  | .blez .. => "BLEZ"
  | .blezalc .. => "BLEZALC"
  | .bgezalc .. => "BGEZALC"
  | .bgeuc .. => "BGEUC"
  | .bgtz .. => "BGTZ"
  | .bgtzalc .. => "BGTZALC"
  | .bltzalc .. => "BLTZALC"
  | .bltuc .. => "BLTUC"
  | .beqzalc .. => "BEQZALC"
  | .beqc .. => "BEQC"
  | .bovc .. => "BOVC"
  | .addiu .. => "ADDIU"
  | .slti .. => "SLTI"
  | .sltiu .. => "SLTIU"
  | .andi .. => "ANDI"
  | .ori .. => "ORI"
  | .xori .. => "XORI"
  | .aui .. => "AUI"
  | .cop1 .. => "COP1"
  | .blezc .. => "BLEZC"
  | .bgezc .. => "BGEZC"
  | .bgec .. => "BGEC"
  | .pop26Nop .. => "POP26.NOP"
  | .bgtzc .. => "BGTZC"
  | .bltzc .. => "BLTZC"
  | .bltc .. => "BLTC"
  | .pop27Nop .. => "POP27.NOP"
  | .bnezalc .. => "BNEZALC"
  | .bnec .. => "BNEC"
  | .bnvc .. => "BNVC"
  | .ext .. => "EXT"
  | .ins .. => "INS"
  | .bitswap .. => "BITSWAP"
  | .wsbh .. => "WSBH"
  | .align .. => "ALIGN"
  | .seb .. => "SEB"
  | .seh .. => "SEH"
  | .lb .. => "LB"
  | .lh .. => "LH"
  | .lw .. => "LW"
  | .lbu .. => "LBU"
  | .lhu .. => "LHU"
  | .sb .. => "SB"
  | .sh .. => "SH"
  | .sw .. => "SW"
  | .bc .. => "BC"
  | .jic .. => "JIC"
  | .beqzc .. => "BEQZC"
  | .balc .. => "BALC"
  | .addiupc .. => "ADDIUPC"
  | .lwpc .. => "LWPC"
  | .auipc .. => "AUIPC"
  | .aluipc .. => "ALUIPC"
  | .jialc .. => "JIALC"
  | .bnezc .. => "BNEZC"

end Sys2Proof
end

