-- ==== Sys2Proof/Machine/State.lean ====
section
/-! DEFINITION. The state of the machine as plain data: the register file of spec/10_state.md (general
registers, `pc`, `dbt`, `exc`), the memory of spec/20_memory.md R68, the implementation parameters, and the
answer of the last step; the state after reset; and the reasons a step could stop. -/

namespace Sys2Proof.Machine

/-- The cause kinds of the exception record: the core produces `trap` and no other
(spec/10_state.md R32; spec/60_exceptions.md R350). -/
inductive Cause where
  | trap
deriving DecidableEq, Repr

/-- The exception record: cause kind and offending raw instruction word (R32). -/
structure ExcRecord where
  cause : Cause
  raw : Word
deriving DecidableEq, Repr

/-- The reasons for a step's answer false, the spec's own labels; the hardware outputs only the boolean
(spec/40_step.md R125, D14). -/
inductive FailReason where
  | fetchError
  | decodeError
  | unrecognisedOp
  | fpuUnimplemented
  | memLoadError
  | memStoreError
  | divideByZero
  | bitfieldRange
  | trap
deriving DecidableEq, Repr

/-- The answer of the last step (spec/40_step.md R125, R129). `idle`: no step has run since reset. The model's
own field, no register of the spec (log entry 6). -/
inductive Answer where
  | idle
  | success
  | failure (reason : FailReason)
deriving DecidableEq, Repr

/-- The memory's content (spec/20_memory.md R68): the cells that differ from `unlistedByte`, by strictly
rising address. Which addresses exist, and in which order a wider value lies, is `Config`'s. -/
structure Memory where
  cells : List Host.Cell
deriving DecidableEq, Repr

/-- The canonical form, so that equal memories are equal data: addresses strictly rise and no listed byte
equals what an unlisted address reads as. -/
abbrev Memory.wf (m : Memory) : Prop :=
  m.cells.Pairwise (fun c d => c.1 < d.1) ∧ ∀ c ∈ m.cells, c.2 ≠ unlistedByte

/-- All the state there is. `w`, `iaddr` and `cpc` are values of one step and not state (R37). -/
structure State where
  /-- `x[0]` to `x[31]` (R20). Entry 0 is never written and never read (R21). -/
  regs : Vector Word 32
  /-- The program counter (R26). -/
  pc : Word
  /-- The pending delayed-branch target (R28). -/
  dbt : Option Word
  /-- The exception record (R32). -/
  exc : Option ExcRecord
  /-- The memory behind the interface (R36, R68). -/
  mem : Memory
  /-- The implementation parameters (R6); no step changes them. -/
  config : Config
  /-- The answer of the last step (R125). -/
  answer : Answer
deriving DecidableEq, Repr

/-- Why the machine would stop. The spec gives every failing step an effect and lets the next step run
(spec/40_step.md R125, R127), so a failing step is a next state whose `answer` says so and there is no reason
to stop: nobody raises a fault (log entry 5; safe and unsafe alike are void, there being no constructor). -/
inductive Fault
deriving DecidableEq, Repr

/-- Why the model would decline an instruction. -/
inductive Refusal where
  /-- Raised by `exec` for an instruction that has no meaning yet; safe, since nothing can then be proved of a
  step that runs it. Every instruction has its meaning, so no arm raises it. -/
  | notModelled (mnemonic : String)
deriving DecidableEq, Repr

/-- What a step, or one instruction, answers. -/
abbrev Result := Host.Outcome State Fault Refusal

/-- The state right after reset, that is creation: every register 0, `pc` 0, nothing pending, nothing
recorded (spec/70_reset_and_hazards.md R380; spec/10_state.md R38). The memory lists nothing (R381; log entry
3), the parameters have their reference values (log entries 1, 2, 4) and no step has answered (log entry 6). -/
def State.reset : State :=
  { regs := Vector.replicate 32 0#32
    pc := 0#32
    dbt := none
    exc := none
    mem := ⟨[]⟩
    config := Config.reference
    answer := .idle }

end Sys2Proof.Machine
end

