-- ==== Sys2Proof/Machine/Ops.lean ====
section
/-! DEFINITION. The named operations over registers and memory, the exception record, and the shared shapes in
which an instruction ends (spec/00_scope.md R8, R11, R12). An instruction's meaning starts in the state BEFORE
the step's `update_pc()`: `iaddr` is that state's `pc`, and `cpc` is `pc` after `State.updatePc` (log entry 7). -/

namespace Sys2Proof.Machine

/-! ## The register file (spec/10_state.md) -/

/-- `x[i]`: register 0 reads 0 (R21). -/
def State.reg (s : State) (r : Reg) : Word := if r = 0 then 0#32 else s.regs.get r

/-- `x[i] <- v`: a write to register 0 is dropped (R21). -/
def State.setReg (s : State) (r : Reg) (v : Word) : State :=
  if r = 0 then s else { s with regs := s.regs.set r.val v r.isLt }

/-- `update_pc()` (R27): commit the pending branch, or advance by 4. -/
def State.updatePc (s : State) : State :=
  match s.dbt with
  | some t => { s with pc := t, dbt := none }
  | none => { s with pc := s.pc + 4#32 }

/-- `cpc`: `pc` after this step's `update_pc()` (spec/40_step.md R122). -/
def State.cpc (s : State) : Word := s.updatePc.pc

/-- `delayed_branch(T)` (R29): arm the pending slot. -/
def State.delayedBranch (s : State) (t : Word) : State := { s with dbt := some t }

/-- `pc <- t`, the write of a compact branch or jump (R26). -/
def State.jump (s : State) (t : Word) : State := { s with pc := t }

/-- `x[31] <- cpc`, on a state whose `pc` is `cpc` (R24). -/
def State.link (s : State) : State := s.setReg 31 s.pc

/-- `signal_exception(cause, raw)` (R33): the most recent exception overwrites an earlier record. -/
def State.signalException (s : State) (cause : Cause) (raw : Word) : State :=
  { s with exc := some ⟨cause, raw⟩ }

/-! ## Memory (spec/20_memory.md R68) -/

/-- The three request sizes (R50). -/
inductive AccessSize where
  | byte
  | half
  | word
deriving DecidableEq, Repr

/-- The size in bytes. -/
def AccessSize.bytes : AccessSize → Nat
  | .byte => 1
  | .half => 2
  | .word => 4

/-- The byte a cell list gives an address. -/
def lookupCell (a : Nat) : List Host.Cell → Byte
  | [] => unlistedByte
  | (k, v) :: rest => if k = a then v else lookupCell a rest

/-- The cell list with the byte `b` at `a`; a byte equal to `unlistedByte` is not listed. -/
def insertCell (a : Nat) (b : Byte) : List Host.Cell → List Host.Cell
  | [] => if b = unlistedByte then [] else [(a, b)]
  | (k, v) :: rest =>
    if a < k then (if b = unlistedByte then (k, v) :: rest else (a, b) :: (k, v) :: rest)
    else if a = k then (if b = unlistedByte then rest else (a, b) :: rest)
    else (k, v) :: insertCell a b rest

/-- The byte stored at an address. -/
def Memory.readByte (m : Memory) (a : Nat) : Byte := lookupCell a m.cells

/-- One byte stored. -/
def Memory.writeByte (m : Memory) (a : Nat) (b : Byte) : Memory := ⟨insertCell a b m.cells⟩

/-- The `n` bytes from `a` upward. -/
def Memory.readBytes (m : Memory) (a : Nat) : Nat → List Byte
  | 0 => []
  | n + 1 => m.readByte a :: m.readBytes (a + 1) n

/-- Bytes stored from `a` upward. -/
def Memory.writeBytes (m : Memory) (a : Nat) : List Byte → Memory
  | [] => m
  | b :: rest => (m.writeByte a b).writeBytes (a + 1) rest

/-- A byte address the memory accepts: in one of the ranges of `MAPPED`, and a 32-bit address (R55). -/
def isMapped (c : Config) (a : Nat) : Bool :=
  decide (a < 2 ^ 32) && c.mapped.any (fun r => decide (r.first ≤ a) && decide (a ≤ r.last))

/-- All of the `n` bytes from `a` upward are mapped. -/
def allMapped (c : Config) (a : Nat) : Nat → Bool
  | 0 => true
  | n + 1 => isMapped c a && allMapped c (a + 1) n

/-- A request the memory accepts: naturally aligned (R54) and mapped in every byte (R55). -/
def acceptsRequest (c : Config) (addr : Word) (n : AccessSize) : Bool :=
  decide (addr.toNat % n.bytes = 0) && allMapped c addr.toNat n.bytes

/-- Bytes, least significant first, as a value. -/
def assembleLittle : List Byte → Word
  | [] => 0#32
  | b :: rest => (assembleLittle rest <<< 8) ||| b.zeroExtend 32

/-- Bytes in address order as a value, in the memory's byte order (R53, R68). -/
def assemble (e : Endian) (bytes : List Byte) : Word :=
  match e with
  | .little => assembleLittle bytes
  | .big => assembleLittle bytes.reverse

/-- The `n` low bytes of a value, least significant first. -/
def splitLittle (v : Word) : Nat → List Byte
  | 0 => []
  | n + 1 => v.extractLsb' 0 8 :: splitLittle (v >>> 8) n

/-- The `n` low bytes of a value in address order (R53, R68). -/
def splitBytes (e : Endian) (v : Word) (n : Nat) : List Byte :=
  match e with
  | .little => splitLittle v n
  | .big => (splitLittle v n).reverse

/-- `MemRead(addr, n)`: the unsigned value, or `none` for AccessError (spec/00_scope.md R11). -/
def State.memRead (s : State) (addr : Word) (n : AccessSize) : Option Word :=
  if acceptsRequest s.config addr n then
    some (assemble s.config.endian (s.mem.readBytes addr.toNat n.bytes))
  else none

/-- The low bytes of `v` placed at `addr`, whatever the memory accepts: the store of an accepted request, and
the host's loading of a program word (spec/70_reset_and_hazards.md R382). -/
def State.placeValue (s : State) (addr : Word) (n : AccessSize) (v : Word) : State :=
  { s with mem := s.mem.writeBytes addr.toNat (splitBytes s.config.endian v n.bytes) }

/-- `MemWrite(addr, n, v)`: the state with the low `8n` bits stored, or `none` for AccessError, which changes
nothing (R11; spec/20_memory.md R58). -/
def State.memWrite (s : State) (addr : Word) (n : AccessSize) (v : Word) : Option State :=
  if acceptsRequest s.config addr n then some (s.placeValue addr n v) else none

/-- The fetch: `MemRead(pc, 4)` (spec/40_step.md R121). -/
def State.fetch (s : State) : Option Word := s.memRead s.pc .word

/-! ## How a step ends (spec/00_scope.md R12; spec/40_step.md R125 to R127) -/

/-- The state with the step's answer recorded (log entry 6). -/
def State.withAnswer (s : State) (a : Answer) : State := { s with answer := a }

/-- The step's answer is true. -/
def succeed (s : State) : Result := .next (s.withAnswer .success)

/-- `fail(reason)`: the step's answer is false, what was written before stands, and the machine is not halted
(R126, R127; log entry 5). -/
def failStep (reason : FailReason) (s : State) : Result := .next (s.withAnswer (.failure reason))

/-- TAKING AN EXCEPTION: `raise Trap(raw)` (spec/60_exceptions.md R352, R353). It saves `(trap, raw)` in `exc` and
ends the step with the answer false; it saves no address, changes no mode and transfers control nowhere. There
is nothing to return from and no return instruction (R354). `s` is the state after `update_pc()`. -/
def raiseTrap (raw : Word) (s : State) : Result := failStep .trap (s.signalException .trap raw)

/-- What a word that selects no instruction fails with: a SOP32 or SOP33 word tests the divisor before its
`shamt` (spec/42_special_muldiv_jump_trap.md R180). -/
def rejectReason (s : State) : Reject → FailReason
  | .decodeError => .decodeError
  | .unrecognisedOp => .unrecognisedOp
  | .unrecognisedDivide rt => if s.reg rt = 0#32 then .divideByZero else .unrecognisedOp

/-- A step whose word selects no instruction: `update_pc()` has run, nothing else has (spec/40_step.md R123;
spec/30_encoding.md R106). -/
def rejectStep (r : Reject) (s : State) : Result := failStep (rejectReason s r) s.updatePc

/-! ## The shapes of instructions, from the state before `update_pc()` -/

/-- Nothing but `update_pc()`. -/
def doNothing (s : State) : Result := succeed s.updatePc

/-- A result computed from the state before the step, written to a register (spec/40_step.md R131). -/
def writeResult (rd : Reg) (v : Word) (s : State) : Result := succeed (s.updatePc.setReg rd v)

/-- A division: it fails on a zero divisor and writes nothing (R185 to R188). -/
def divideInto (rd : Reg) (divisor v : Word) (s : State) : Result :=
  if divisor = 0#32 then failStep .divideByZero s.updatePc else writeResult rd v s

/-- EXT and INS: they fail on a range violation and write nothing (spec/48_special3.md R317). -/
def fieldInto (rt : Reg) (outOfRange : Bool) (v : Word) (s : State) : Result :=
  if outOfRange then failStep .bitfieldRange s.updatePc else writeResult rt v s

/-- A conditional trap on the word `raw` (spec/42_special_muldiv_jump_trap.md R202). -/
def trapIf (c : Bool) (raw : Word) (s : State) : Result :=
  if c then raiseTrap raw s.updatePc else doNothing s

/-- A legacy conditional branch: arm `dbt` if the condition holds (spec/43_itype_alu_branch.md R211). -/
def branchDelayed (c : Bool) (t : Word) (s : State) : Result :=
  succeed (if c then s.updatePc.delayedBranch t else s.updatePc)

/-- A legacy jump that links: `x[31] <- cpc; delayed_branch(t)` (spec/46_jtype.md R292). -/
def jumpDelayedLink (t : Word) (s : State) : Result := succeed (s.updatePc.link.delayedBranch t)

/-- A compact branch: `pc <- t` if the condition holds, `dbt` untouched (spec/44_pop_compact.md R230). -/
def branchCompact (c : Bool) (t : Word) (s : State) : Result :=
  succeed (if c then s.updatePc.jump t else s.updatePc)

/-- A compact branch that links whether or not it is taken (R230 (d)). -/
def branchCompactLink (c : Bool) (t : Word) (s : State) : Result :=
  succeed (if c then s.updatePc.link.jump t else s.updatePc.link)

/-- A load of `n` bytes at `addr`, extended and written to a register; the request is issued and can fail
whatever the register (spec/45_loadstore.md R271). -/
def loadInto (rt : Reg) (addr : Word) (n : AccessSize) (extend : Word → Word) (s : State) : Result :=
  match s.memRead addr n with
  | none => failStep .memLoadError s.updatePc
  | some v => writeResult rt (extend v) s

/-- A store of the low `n` bytes of `v` at `addr` (R271). -/
def storeFrom (addr : Word) (n : AccessSize) (v : Word) (s : State) : Result :=
  match s.memWrite addr n v with
  | none => failStep .memStoreError s.updatePc
  | some t => succeed t.updatePc

end Sys2Proof.Machine
end

