-- ==== Sys2Proof/Machine/AluShift.lean ====
section
/-! DEFINITION. The meanings of SPECIAL arithmetic, logic, shifts, rotates, compares, selects and counts (spec/41_special_alu_shift.md). Each starts in the state before the step's
`update_pc()`; registers are read there (spec/40_step.md R131). -/

namespace Sys2Proof.Machine

/-- ADD (R140): `x[rd] <- x[rs] + x[rt]` modulo 2^32, with no overflow detection. -/
def execAdd (rd rs rt : Reg) (s : State) : Result :=
  writeResult rd (s.reg rs + s.reg rt) s

/-- ADDU (R141): `x[rd] <- x[rs] + x[rt]` modulo 2^32. -/
def execAddu (rd rs rt : Reg) (s : State) : Result :=
  writeResult rd (s.reg rs + s.reg rt) s

/-- SUB (R142): `x[rd] <- x[rs] - x[rt]` modulo 2^32, with no overflow detection. -/
def execSub (rd rs rt : Reg) (s : State) : Result :=
  writeResult rd (s.reg rs - s.reg rt) s

/-- SUBU (R143): `x[rd] <- x[rs] - x[rt]` modulo 2^32. -/
def execSubu (rd rs rt : Reg) (s : State) : Result :=
  writeResult rd (s.reg rs - s.reg rt) s

/-- AND (R144): `x[rd] <- x[rs] & x[rt]`. -/
def execAnd (rd rs rt : Reg) (s : State) : Result :=
  writeResult rd (s.reg rs &&& s.reg rt) s

/-- OR (R145): `x[rd] <- x[rs] | x[rt]`. -/
def execOr (rd rs rt : Reg) (s : State) : Result :=
  writeResult rd (s.reg rs ||| s.reg rt) s

/-- XOR (R146): `x[rd] <- x[rs] ^ x[rt]`. -/
def execXor (rd rs rt : Reg) (s : State) : Result :=
  writeResult rd (s.reg rs ^^^ s.reg rt) s

/-- NOR (R147): `x[rd] <- ~(x[rs] | x[rt])`. -/
def execNor (rd rs rt : Reg) (s : State) : Result :=
  writeResult rd (~~~(s.reg rs ||| s.reg rt)) s

/-- SLL (R148): `x[rd] <- x[rt] << shamt`. -/
def execSll (rd rt : Reg) (shamt : BitIndex) (s : State) : Result :=
  writeResult rd (s.reg rt <<< shamt.val) s

/-- SLLV (R149): `x[rd] <- x[rt] << (x[rs] & 31)`. -/
def execSllv (rd rt rs : Reg) (s : State) : Result :=
  writeResult rd (s.reg rt <<< shiftAmount (s.reg rs)) s

/-- SRA (R150): arithmetic right shift of `x[rt]` by `shamt`. -/
def execSra (rd rt : Reg) (shamt : BitIndex) (s : State) : Result :=
  writeResult rd (arithShiftRight (s.reg rt) shamt.val) s

/-- SRAV (R151): SRA by `x[rs] & 31`. -/
def execSrav (rd rt rs : Reg) (s : State) : Result :=
  writeResult rd (arithShiftRight (s.reg rt) (shiftAmount (s.reg rs))) s

/-- SRL (R152): `x[rd] <- x[rt] >> shamt`. -/
def execSrl (rd rt : Reg) (shamt : BitIndex) (s : State) : Result :=
  writeResult rd (s.reg rt >>> shamt.val) s

/-- ROTR (R153): `x[rt]` rotated right by `shamt`. -/
def execRotr (rd rt : Reg) (shamt : BitIndex) (s : State) : Result :=
  writeResult rd (rotateRight (s.reg rt) shamt.val) s

/-- SRLV (R154): `x[rd] <- x[rt] >> (x[rs] & 31)`. -/
def execSrlv (rd rt rs : Reg) (s : State) : Result :=
  writeResult rd (s.reg rt >>> shiftAmount (s.reg rs)) s

/-- ROTRV (R155): `x[rt]` rotated right by `x[rs] & 31`. -/
def execRotrv (rd rt rs : Reg) (s : State) : Result :=
  writeResult rd (rotateRight (s.reg rt) (shiftAmount (s.reg rs))) s

/-- SLT (R156): 1 if `s(x[rs]) < s(x[rt])` else 0. -/
def execSlt (rd rs rt : Reg) (s : State) : Result :=
  writeResult rd (boolWord (ltSigned (s.reg rs) (s.reg rt))) s

/-- SLTU (R157): 1 if `u(x[rs]) < u(x[rt])` else 0. -/
def execSltu (rd rs rt : Reg) (s : State) : Result :=
  writeResult rd (boolWord (ltUnsigned (s.reg rs) (s.reg rt))) s

/-- SELEQZ (R158): `x[rs]` if `x[rt] = 0` else 0. -/
def execSeleqz (rd rs rt : Reg) (s : State) : Result :=
  writeResult rd (if s.reg rt = 0#32 then s.reg rs else 0#32) s

/-- SELNEZ (R159): 0 if `x[rt] = 0` else `x[rs]`. -/
def execSelnez (rd rs rt : Reg) (s : State) : Result :=
  writeResult rd (if s.reg rt = 0#32 then 0#32 else s.reg rs) s

/-- CLZ (R160): leading 0 bits of `x[rs]`. -/
def execClz (rd rs : Reg) (s : State) : Result :=
  writeResult rd (countLeadingZeros (s.reg rs)) s

/-- CLO (R161): leading 1 bits of `x[rs]`. -/
def execClo (rd rs : Reg) (s : State) : Result :=
  writeResult rd (countLeadingOnes (s.reg rs)) s

end Sys2Proof.Machine
end

