-- ==== Sys2Proof/Machine/Branch.lean ====
section
/-! DEFINITION. The meanings of the legacy conditional branches, with a delay slot: BEQ, BNE (spec/43_itype_alu_branch.md), BLEZ, BGTZ (spec/44_pop_compact.md), BLTZ, BGEZ (spec/47_regimm.md). Each starts in the state before the step's
`update_pc()`; registers are read there (spec/40_step.md R131). -/

namespace Sys2Proof.Machine

/-- BEQ (R211): if `x[rs] = x[rt]` then `delayed_branch(branch_target)`. -/
def execBeq (rs rt : Reg) (imm : BitVec 16) (s : State) : Result :=
  branchDelayed (s.reg rs == s.reg rt) (branchTarget s.cpc imm) s

/-- BNE (R212): if `x[rs] != x[rt]` then `delayed_branch(branch_target)`. -/
def execBne (rs rt : Reg) (imm : BitVec 16) (s : State) : Result :=
  branchDelayed (s.reg rs != s.reg rt) (branchTarget s.cpc imm) s

/-- BLEZ (R232): if `s(x[rs]) <= 0` then `delayed_branch(branch_target)`. -/
def execBlez (rs : Reg) (imm : BitVec 16) (s : State) : Result :=
  branchDelayed (leZero (s.reg rs)) (branchTarget s.cpc imm) s

/-- BGTZ (R237): if `s(x[rs]) > 0` then `delayed_branch(branch_target)`. -/
def execBgtz (rs : Reg) (imm : BitVec 16) (s : State) : Result :=
  branchDelayed (gtZero (s.reg rs)) (branchTarget s.cpc imm) s

/-- BLTZ (R301): if `s(x[rs]) < 0` then `delayed_branch(branch_target)`. -/
def execBltz (rs : Reg) (imm : BitVec 16) (s : State) : Result :=
  branchDelayed (ltZero (s.reg rs)) (branchTarget s.cpc imm) s

/-- BGEZ (R302): if `s(x[rs]) >= 0` then `delayed_branch(branch_target)`. -/
def execBgez (rs : Reg) (imm : BitVec 16) (s : State) : Result :=
  branchDelayed (geZero (s.reg rs)) (branchTarget s.cpc imm) s

end Sys2Proof.Machine
end

