-- ==== Sys2Proof/Machine/Compact.lean ====
section
/-! DEFINITION. The meanings of the compact members of the POP families, JIC, JIALC and the POP26, POP27 no-ops (spec/44_pop_compact.md). Each starts in the state before the step's
`update_pc()`; registers are read there (spec/40_step.md R131). -/

namespace Sys2Proof.Machine

/-- BLEZALC (R233): link, then `pc <- branch_target` if `s(x[rt]) <= 0`, tested before the link (R131). -/
def execBlezalc (rt : Reg) (imm : BitVec 16) (s : State) : Result :=
  branchCompactLink (leZero (s.reg rt)) (branchTarget s.cpc imm) s

/-- BGEZALC (R234): link, then `pc <- branch_target` if `s(x[rt]) >= 0`, tested before the link (R131). -/
def execBgezalc (rt : Reg) (imm : BitVec 16) (s : State) : Result :=
  branchCompactLink (geZero (s.reg rt)) (branchTarget s.cpc imm) s

/-- BGTZALC (R238): link, then `pc <- branch_target` if `s(x[rt]) > 0`, tested before the link (R131). -/
def execBgtzalc (rt : Reg) (imm : BitVec 16) (s : State) : Result :=
  branchCompactLink (gtZero (s.reg rt)) (branchTarget s.cpc imm) s

/-- BLTZALC (R239): link, then `pc <- branch_target` if `s(x[rt]) < 0`, tested before the link (R131). -/
def execBltzalc (rt : Reg) (imm : BitVec 16) (s : State) : Result :=
  branchCompactLink (ltZero (s.reg rt)) (branchTarget s.cpc imm) s

/-- BEQZALC (R242): link, then `pc <- branch_target` if `x[rt] = 0`, tested before the link (R131). -/
def execBeqzalc (rt : Reg) (imm : BitVec 16) (s : State) : Result :=
  branchCompactLink (s.reg rt == 0#32) (branchTarget s.cpc imm) s

/-- BNEZALC (R247): link, then `pc <- branch_target` if `x[rt] != 0`, tested before the link (R131). -/
def execBnezalc (rt : Reg) (imm : BitVec 16) (s : State) : Result :=
  branchCompactLink (s.reg rt != 0#32) (branchTarget s.cpc imm) s

/-- BGEUC (R235): `pc <- branch_target` if `u(x[rs]) >= u(x[rt])`. -/
def execBgeuc (rs rt : Reg) (imm : BitVec 16) (s : State) : Result :=
  branchCompact (geUnsigned (s.reg rs) (s.reg rt)) (branchTarget s.cpc imm) s

/-- BLTUC (R240): `pc <- branch_target` if `u(x[rs]) < u(x[rt])`. -/
def execBltuc (rs rt : Reg) (imm : BitVec 16) (s : State) : Result :=
  branchCompact (ltUnsigned (s.reg rs) (s.reg rt)) (branchTarget s.cpc imm) s

/-- BEQC (R243): `pc <- branch_target` if `x[rs] = x[rt]`. -/
def execBeqc (rs rt : Reg) (imm : BitVec 16) (s : State) : Result :=
  branchCompact (s.reg rs == s.reg rt) (branchTarget s.cpc imm) s

/-- BNEC (R248): `pc <- branch_target` if `x[rs] != x[rt]`. -/
def execBnec (rs rt : Reg) (imm : BitVec 16) (s : State) : Result :=
  branchCompact (s.reg rs != s.reg rt) (branchTarget s.cpc imm) s

/-- BOVC (R244): `pc <- branch_target` if `overflow(x[rs], x[rt])`. -/
def execBovc (rs rt : Reg) (imm : BitVec 16) (s : State) : Result :=
  branchCompact (addOverflows (s.reg rs) (s.reg rt)) (branchTarget s.cpc imm) s

/-- BNVC (R249): `pc <- branch_target` if not `overflow(x[rs], x[rt])`. -/
def execBnvc (rs rt : Reg) (imm : BitVec 16) (s : State) : Result :=
  branchCompact (!addOverflows (s.reg rs) (s.reg rt)) (branchTarget s.cpc imm) s

/-- BLEZC (R251): `pc <- branch_target` if `s(x[rt]) <= 0`. -/
def execBlezc (rt : Reg) (imm : BitVec 16) (s : State) : Result :=
  branchCompact (leZero (s.reg rt)) (branchTarget s.cpc imm) s

/-- BGEZC (R252): `pc <- branch_target` if `s(x[rt]) >= 0`. -/
def execBgezc (rt : Reg) (imm : BitVec 16) (s : State) : Result :=
  branchCompact (geZero (s.reg rt)) (branchTarget s.cpc imm) s

/-- BGEC (R253): `pc <- branch_target` if `s(x[rs]) >= s(x[rt])`. -/
def execBgec (rs rt : Reg) (imm : BitVec 16) (s : State) : Result :=
  branchCompact (geSigned (s.reg rs) (s.reg rt)) (branchTarget s.cpc imm) s

/-- BGTZC (R255): `pc <- branch_target` if `s(x[rt]) > 0`. -/
def execBgtzc (rt : Reg) (imm : BitVec 16) (s : State) : Result :=
  branchCompact (gtZero (s.reg rt)) (branchTarget s.cpc imm) s

/-- BLTZC (R256): `pc <- branch_target` if `s(x[rt]) < 0`. -/
def execBltzc (rt : Reg) (imm : BitVec 16) (s : State) : Result :=
  branchCompact (ltZero (s.reg rt)) (branchTarget s.cpc imm) s

/-- BLTC (R257): `pc <- branch_target` if `s(x[rs]) < s(x[rt])`. -/
def execBltc (rs rt : Reg) (imm : BitVec 16) (s : State) : Result :=
  branchCompact (ltSigned (s.reg rs) (s.reg rt)) (branchTarget s.cpc imm) s

/-- POP26.NOP (R259): a no-op that succeeds. -/
def execPop26Nop (s : State) : Result :=
  doNothing s

/-- POP27.NOP (R259): a no-op that succeeds. -/
def execPop27Nop (s : State) : Result :=
  doNothing s

/-- JIC (R261): `pc <- x[rt] + sext_16(imm)`. -/
def execJic (rt : Reg) (imm : BitVec 16) (s : State) : Result :=
  branchCompact true (s.reg rt + sext16 imm) s

/-- JIALC (R264): `t <- x[rt] + sext_16(imm); x[31] <- cpc; pc <- t`. -/
def execJialc (rt : Reg) (imm : BitVec 16) (s : State) : Result :=
  branchCompactLink true (s.reg rt + sext16 imm) s

/-- BEQZC (R262): `pc <- cpc + sext_21(imm21) * 4` if `x[rs] = 0`. -/
def execBeqzc (rs : Reg) (imm21 : BitVec 21) (s : State) : Result :=
  branchCompact (s.reg rs == 0#32) (branchTarget21 s.cpc imm21) s

/-- BNEZC (R265): `pc <- cpc + sext_21(imm21) * 4` if `x[rs] != 0`. -/
def execBnezc (rs : Reg) (imm21 : BitVec 21) (s : State) : Result :=
  branchCompact (s.reg rs != 0#32) (branchTarget21 s.cpc imm21) s

end Sys2Proof.Machine
end

