-- ==== Sys2Proof/Machine/Immediate.lean ====
section
/-! DEFINITION. The meanings of I-type arithmetic and logic (spec/43_itype_alu_branch.md section 2). Each starts in the state before the step's
`update_pc()`; registers are read there (spec/40_step.md R131). -/

namespace Sys2Proof.Machine

/-- ADDIU (R213): `x[rt] <- x[rs] + sext_16(imm)`. -/
def execAddiu (rt rs : Reg) (imm : BitVec 16) (s : State) : Result :=
  writeResult rt (s.reg rs + sext16 imm) s

/-- AUI (R214): `x[rt] <- x[rs] + (imm ## 0x0000)`. -/
def execAui (rt rs : Reg) (imm : BitVec 16) (s : State) : Result :=
  writeResult rt (s.reg rs + upperImm imm) s

/-- SLTI (R215): 1 if `s(x[rs]) < s(sext_16(imm))` else 0. -/
def execSlti (rt rs : Reg) (imm : BitVec 16) (s : State) : Result :=
  writeResult rt (boolWord (ltSigned (s.reg rs) (sext16 imm))) s

/-- SLTIU (R216): 1 if `u(x[rs]) < u(sext_16(imm))` else 0. -/
def execSltiu (rt rs : Reg) (imm : BitVec 16) (s : State) : Result :=
  writeResult rt (boolWord (ltUnsigned (s.reg rs) (sext16 imm))) s

/-- ANDI (R217): `x[rt] <- x[rs] & zext_16(imm)`. -/
def execAndi (rt rs : Reg) (imm : BitVec 16) (s : State) : Result :=
  writeResult rt (s.reg rs &&& zext16 imm) s

/-- ORI (R218): `x[rt] <- x[rs] | zext_16(imm)`. -/
def execOri (rt rs : Reg) (imm : BitVec 16) (s : State) : Result :=
  writeResult rt (s.reg rs ||| zext16 imm) s

/-- XORI (R219): `x[rt] <- x[rs] ^ zext_16(imm)`. -/
def execXori (rt rs : Reg) (imm : BitVec 16) (s : State) : Result :=
  writeResult rt (s.reg rs ^^^ zext16 imm) s

end Sys2Proof.Machine
end

