-- ==== Sys2Proof/Machine/JType.lean ====
section
/-! DEFINITION. The meanings of J, JAL, BC, BALC (spec/46_jtype.md). Each starts in the state before the step's
`update_pc()`; registers are read there (spec/40_step.md R131). -/

namespace Sys2Proof.Machine

/-- J (R291): `delayed_branch(jta)`. -/
def execJ (address : BitVec 26) (s : State) : Result :=
  branchDelayed true (jumpTarget s.cpc address) s

/-- JAL (R292): `x[31] <- cpc; delayed_branch(jta)`. -/
def execJal (address : BitVec 26) (s : State) : Result :=
  jumpDelayedLink (jumpTarget s.cpc address) s

/-- BC (R293): `pc <- cpc + sext_26(address) * 4`. -/
def execBc (address : BitVec 26) (s : State) : Result :=
  branchCompact true (branchTarget26 s.cpc address) s

/-- BALC (R294): `x[31] <- cpc; pc <- cpc + sext_26(address) * 4`. -/
def execBalc (address : BitVec 26) (s : State) : Result :=
  branchCompactLink true (branchTarget26 s.cpc address) s

end Sys2Proof.Machine
end

