-- ==== Sys2Proof/Machine/JumpTrap.lean ====
section
/-! DEFINITION. The meanings of JR, JALR and the conditional traps (spec/42_special_muldiv_jump_trap.md sections 2 and 3). Each starts in the state before the step's
`update_pc()`; registers are read there (spec/40_step.md R131). -/

namespace Sys2Proof.Machine

/-- JR (R200): `delayed_branch(x[rs])`. -/
def execJr (rs : Reg) (s : State) : Result :=
  branchDelayed true (s.reg rs) s

/-- JALR (R201): `x[31] <- cpc; delayed_branch(x[rs])`, the target read first (R131). -/
def execJalr (rs : Reg) (s : State) : Result :=
  jumpDelayedLink (s.reg rs) s

/-- TEQ (R203): trap with the raw word if `x[rs] = x[rt]`, else nothing. -/
def execTeq (rs rt : Reg) (code : BitVec 10) (s : State) : Result :=
  trapIf (s.reg rs == s.reg rt) (encode (.teq rs rt code)) s

/-- TNE (R204): trap with the raw word if `x[rs] != x[rt]`, else nothing. -/
def execTne (rs rt : Reg) (code : BitVec 10) (s : State) : Result :=
  trapIf (s.reg rs != s.reg rt) (encode (.tne rs rt code)) s

/-- TGE (R205): trap with the raw word if `s(x[rs]) >= s(x[rt])`, else nothing. -/
def execTge (rs rt : Reg) (code : BitVec 10) (s : State) : Result :=
  trapIf (geSigned (s.reg rs) (s.reg rt)) (encode (.tge rs rt code)) s

/-- TGEU (R206): trap with the raw word if `u(x[rs]) >= u(x[rt])`, else nothing. -/
def execTgeu (rs rt : Reg) (code : BitVec 10) (s : State) : Result :=
  trapIf (geUnsigned (s.reg rs) (s.reg rt)) (encode (.tgeu rs rt code)) s

/-- TLT (R207): trap with the raw word if `s(x[rs]) < s(x[rt])`, else nothing. -/
def execTlt (rs rt : Reg) (code : BitVec 10) (s : State) : Result :=
  trapIf (ltSigned (s.reg rs) (s.reg rt)) (encode (.tlt rs rt code)) s

/-- TLTU (R208): trap with the raw word if `u(x[rs]) < u(x[rt])`, else nothing. -/
def execTltu (rs rt : Reg) (code : BitVec 10) (s : State) : Result :=
  trapIf (ltUnsigned (s.reg rs) (s.reg rt)) (encode (.tltu rs rt code)) s

end Sys2Proof.Machine
end

