-- ==== Sys2Proof/Machine/LoadStore.lean ====
section
/-! DEFINITION. The meanings of loads and stores (spec/45_loadstore.md). Each starts in the state before the step's
`update_pc()`; registers are read there (spec/40_step.md R131). -/

namespace Sys2Proof.Machine

/-- LB (R272): `x[rt] <- sext_8(MemRead(EA, 1))`. -/
def execLb (rt : Reg) (imm : BitVec 16) (rs : Reg) (s : State) : Result :=
  loadInto rt (effectiveAddress (s.reg rs) imm) .byte sext8 s

/-- LH (R273): `x[rt] <- sext_16(MemRead(EA, 2))`. -/
def execLh (rt : Reg) (imm : BitVec 16) (rs : Reg) (s : State) : Result :=
  loadInto rt (effectiveAddress (s.reg rs) imm) .half sext16Low s

/-- LW (R274): `x[rt] <- MemRead(EA, 4)`. -/
def execLw (rt : Reg) (imm : BitVec 16) (rs : Reg) (s : State) : Result :=
  loadInto rt (effectiveAddress (s.reg rs) imm) .word id s

/-- LBU (R275): `x[rt] <- zext_8(MemRead(EA, 1))`. -/
def execLbu (rt : Reg) (imm : BitVec 16) (rs : Reg) (s : State) : Result :=
  loadInto rt (effectiveAddress (s.reg rs) imm) .byte id s

/-- LHU (R276): `x[rt] <- zext_16(MemRead(EA, 2))`. -/
def execLhu (rt : Reg) (imm : BitVec 16) (rs : Reg) (s : State) : Result :=
  loadInto rt (effectiveAddress (s.reg rs) imm) .half id s

/-- SB (R277): `MemWrite(EA, 1, x[rt][7:0])`. -/
def execSb (rt : Reg) (imm : BitVec 16) (rs : Reg) (s : State) : Result :=
  storeFrom (effectiveAddress (s.reg rs) imm) .byte (s.reg rt) s

/-- SH (R278): `MemWrite(EA, 2, x[rt][15:0])`. -/
def execSh (rt : Reg) (imm : BitVec 16) (rs : Reg) (s : State) : Result :=
  storeFrom (effectiveAddress (s.reg rs) imm) .half (s.reg rt) s

/-- SW (R279): `MemWrite(EA, 4, x[rt])`. -/
def execSw (rt : Reg) (imm : BitVec 16) (rs : Reg) (s : State) : Result :=
  storeFrom (effectiveAddress (s.reg rs) imm) .word (s.reg rt) s

end Sys2Proof.Machine
end

