-- ==== Sys2Proof/Machine/MulDiv.lean ====
section
/-! DEFINITION. The meanings of SPECIAL multiply and divide, SOP30 to SOP33 (spec/42_special_muldiv_jump_trap.md section 1). Each starts in the state before the step's
`update_pc()`; registers are read there (spec/40_step.md R131). -/

namespace Sys2Proof.Machine

/-- MUL (R181): low word of the signed product. -/
def execMul (rd rs rt : Reg) (s : State) : Result :=
  writeResult rd (lowWord (mul64s (s.reg rs) (s.reg rt))) s

/-- MUH (R182): high word of the signed product. -/
def execMuh (rd rs rt : Reg) (s : State) : Result :=
  writeResult rd (highWord (mul64s (s.reg rs) (s.reg rt))) s

/-- MULU (R183): low word of the unsigned product. -/
def execMulu (rd rs rt : Reg) (s : State) : Result :=
  writeResult rd (lowWord (mul64u (s.reg rs) (s.reg rt))) s

/-- MUHU (R184): high word of the unsigned product. -/
def execMuhu (rd rs rt : Reg) (s : State) : Result :=
  writeResult rd (highWord (mul64u (s.reg rs) (s.reg rt))) s

/-- DIV (R185): signed quotient truncated toward zero, `DIV_OVF` where it does not fit (R189); fails on a zero divisor. -/
def execDiv (rd rs rt : Reg) (s : State) : Result :=
  divideInto rd (s.reg rt) (signedQuotient s.config.divOverflow (s.reg rs) (s.reg rt)) s

/-- MOD (R186): signed remainder, of the dividend's sign, `DIV_OVF` in the overflow case (R189); fails on a zero divisor. -/
def execMod (rd rs rt : Reg) (s : State) : Result :=
  divideInto rd (s.reg rt) (signedRemainder s.config.divOverflow (s.reg rs) (s.reg rt)) s

/-- DIVU (R187): `floor(u(x[rs]) / u(x[rt]))`; fails on a zero divisor. -/
def execDivu (rd rs rt : Reg) (s : State) : Result :=
  divideInto rd (s.reg rt) (unsignedQuotient (s.reg rs) (s.reg rt)) s

/-- MODU (R188): `u(x[rs]) mod u(x[rt])`; fails on a zero divisor. -/
def execModu (rd rs rt : Reg) (s : State) : Result :=
  divideInto rd (s.reg rt) (unsignedRemainder (s.reg rs) (s.reg rt)) s

end Sys2Proof.Machine
end

