-- ==== Sys2Proof/Machine/PcRel.lean ====
section
/-! DEFINITION. The meanings of the PC-relative instructions and the floating-point stub (spec/49_pcrel_fpu.md). Each starts in the state before the step's
`update_pc()`; registers are read there (spec/40_step.md R131). -/

namespace Sys2Proof.Machine

/-- ADDIUPC (R332): `x[rs] <- iaddr + sext_21(imm19 ## 0b00)`; `iaddr` is the `pc` before `update_pc()`. -/
def execAddiupc (rs : Reg) (imm19 : BitVec 19) (s : State) : Result :=
  writeResult rs (pcrelAddress s.pc imm19) s

/-- LWPC (R333): `x[rs] <- MemRead(iaddr + sext_21(imm19 ## 0b00), 4)`. -/
def execLwpc (rs : Reg) (imm19 : BitVec 19) (s : State) : Result :=
  loadInto rs (pcrelAddress s.pc imm19) .word id s

/-- AUIPC (R334): `x[rs] <- iaddr + (imm ## 0x0000)`. -/
def execAuipc (rs : Reg) (imm : BitVec 16) (s : State) : Result :=
  writeResult rs (pcrelUpper s.pc imm) s

/-- ALUIPC (R335): `x[rs] <- (iaddr + (imm ## 0x0000)) & 0xFFFF_0000`. -/
def execAluipc (rs : Reg) (imm : BitVec 16) (s : State) : Result :=
  writeResult rs (pcrelUpper s.pc imm &&& 0xFFFF0000#32) s

/-- COP1 (R336): the floating-point stub: the step fails with FpuUnimplemented and changes nothing but `pc` and `dbt`. -/
def execCop1 (s : State) : Result :=
  failStep .fpuUnimplemented s.updatePc

end Sys2Proof.Machine
end

