-- ==== Sys2Proof/Machine/Special3.lean ====
section
/-! DEFINITION. The meanings of byte shuffles and bit fields (spec/48_special3.md). Each starts in the state before the step's
`update_pc()`; registers are read there (spec/40_step.md R131). -/

namespace Sys2Proof.Machine

/-- BITSWAP (R311): each byte of `x[rt]` bit-reversed in place. -/
def execBitswap (rd rt : Reg) (s : State) : Result :=
  writeResult rd (bitswapWord (s.reg rt)) s

/-- WSBH (R312): the bytes of each half-word of `x[rt]` swapped. -/
def execWsbh (rd rt : Reg) (s : State) : Result :=
  writeResult rd (wsbhWord (s.reg rt)) s

/-- ALIGN (R313): the low `4 - bp` bytes of `x[rt]` followed by the high `bp` bytes of `x[rs]`. -/
def execAlign (rd rs rt : Reg) (bp : Fin 4) (s : State) : Result :=
  writeResult rd (alignWord (s.reg rs) (s.reg rt) bp.val) s

/-- SEB (R314): `sext_8(x[rt][7:0])`. -/
def execSeb (rd rt : Reg) (s : State) : Result :=
  writeResult rd (sext8 (s.reg rt)) s

/-- SEH (R315): `sext_16(x[rt][15:0])`. -/
def execSeh (rd rt : Reg) (s : State) : Result :=
  writeResult rd (sext16Low (s.reg rt)) s

/-- EXT (R318): `x[rt] <- zext(x[rs][lsb + msbd : lsb])`, or BitfieldRange. -/
def execExt (rt rs : Reg) (lsb msbd : BitIndex) (s : State) : Result :=
  fieldInto rt (extOutOfRange lsb.val msbd.val) (extractField (s.reg rs) lsb.val msbd.val) s

/-- INS (R319): `x[rt][msb:lsb] <- x[rs][msb - lsb : 0]`, or BitfieldRange. -/
def execIns (rt rs : Reg) (lsb msb : BitIndex) (s : State) : Result :=
  fieldInto rt (insOutOfRange lsb.val msb.val) (insertField (s.reg rt) (s.reg rs) lsb.val msb.val) s

end Sys2Proof.Machine
end

