-- ==== Sys2Proof/Machine/Dispatch.lean ====
section
/-! DEFINITION. Which meaning each instruction has: one arm per constructor, in the order of
spec/opcode_table.json. -/

namespace Sys2Proof.Machine

def exec (i : Instr) (s : State) : Host.Outcome State Fault Refusal :=
  match i with
  | .sll rd rt shamt => Sys2Proof.Machine.execSll rd rt shamt s
  | .srl rd rt shamt => Sys2Proof.Machine.execSrl rd rt shamt s
  | .rotr rd rt shamt => Sys2Proof.Machine.execRotr rd rt shamt s
  | .sra rd rt shamt => Sys2Proof.Machine.execSra rd rt shamt s
  | .sllv rd rt rs => Sys2Proof.Machine.execSllv rd rt rs s
  | .srlv rd rt rs => Sys2Proof.Machine.execSrlv rd rt rs s
  | .rotrv rd rt rs => Sys2Proof.Machine.execRotrv rd rt rs s
  | .srav rd rt rs => Sys2Proof.Machine.execSrav rd rt rs s
  | .jr rs => Sys2Proof.Machine.execJr rs s
  | .jalr rs => Sys2Proof.Machine.execJalr rs s
  | .clz rd rs => Sys2Proof.Machine.execClz rd rs s
  | .clo rd rs => Sys2Proof.Machine.execClo rd rs s
  | .mul rd rs rt => Sys2Proof.Machine.execMul rd rs rt s
  | .muh rd rs rt => Sys2Proof.Machine.execMuh rd rs rt s
  | .mulu rd rs rt => Sys2Proof.Machine.execMulu rd rs rt s
  | .muhu rd rs rt => Sys2Proof.Machine.execMuhu rd rs rt s
  | .div rd rs rt => Sys2Proof.Machine.execDiv rd rs rt s
  | .mod rd rs rt => Sys2Proof.Machine.execMod rd rs rt s
  | .divu rd rs rt => Sys2Proof.Machine.execDivu rd rs rt s
  | .modu rd rs rt => Sys2Proof.Machine.execModu rd rs rt s
  | .add rd rs rt => Sys2Proof.Machine.execAdd rd rs rt s
  | .addu rd rs rt => Sys2Proof.Machine.execAddu rd rs rt s
  | .sub rd rs rt => Sys2Proof.Machine.execSub rd rs rt s
  | .subu rd rs rt => Sys2Proof.Machine.execSubu rd rs rt s
  | .and rd rs rt => Sys2Proof.Machine.execAnd rd rs rt s
  | .or rd rs rt => Sys2Proof.Machine.execOr rd rs rt s
  | .xor rd rs rt => Sys2Proof.Machine.execXor rd rs rt s
  | .nor rd rs rt => Sys2Proof.Machine.execNor rd rs rt s
  | .slt rd rs rt => Sys2Proof.Machine.execSlt rd rs rt s
  | .sltu rd rs rt => Sys2Proof.Machine.execSltu rd rs rt s
  | .tge rs rt code => Sys2Proof.Machine.execTge rs rt code s
  | .tgeu rs rt code => Sys2Proof.Machine.execTgeu rs rt code s
  | .tlt rs rt code => Sys2Proof.Machine.execTlt rs rt code s
  | .tltu rs rt code => Sys2Proof.Machine.execTltu rs rt code s
  | .teq rs rt code => Sys2Proof.Machine.execTeq rs rt code s
  | .seleqz rd rs rt => Sys2Proof.Machine.execSeleqz rd rs rt s
  | .tne rs rt code => Sys2Proof.Machine.execTne rs rt code s
  | .selnez rd rs rt => Sys2Proof.Machine.execSelnez rd rs rt s
  | .bltz rs imm => Sys2Proof.Machine.execBltz rs imm s
  | .bgez rs imm => Sys2Proof.Machine.execBgez rs imm s
  | .j address => Sys2Proof.Machine.execJ address s
  | .jal address => Sys2Proof.Machine.execJal address s
  | .beq rs rt imm => Sys2Proof.Machine.execBeq rs rt imm s
  | .bne rs rt imm => Sys2Proof.Machine.execBne rs rt imm s
  | .blez rs imm => Sys2Proof.Machine.execBlez rs imm s
  | .blezalc rt imm => Sys2Proof.Machine.execBlezalc rt imm s
  | .bgezalc rt imm => Sys2Proof.Machine.execBgezalc rt imm s
  | .bgeuc rs rt imm => Sys2Proof.Machine.execBgeuc rs rt imm s
  | .bgtz rs imm => Sys2Proof.Machine.execBgtz rs imm s
  | .bgtzalc rt imm => Sys2Proof.Machine.execBgtzalc rt imm s
  | .bltzalc rt imm => Sys2Proof.Machine.execBltzalc rt imm s
  | .bltuc rs rt imm => Sys2Proof.Machine.execBltuc rs rt imm s
  | .beqzalc rt imm => Sys2Proof.Machine.execBeqzalc rt imm s
  | .beqc rs rt imm => Sys2Proof.Machine.execBeqc rs rt imm s
  | .bovc rs rt imm => Sys2Proof.Machine.execBovc rs rt imm s
  | .addiu rt rs imm => Sys2Proof.Machine.execAddiu rt rs imm s
  | .slti rt rs imm => Sys2Proof.Machine.execSlti rt rs imm s
  | .sltiu rt rs imm => Sys2Proof.Machine.execSltiu rt rs imm s
  | .andi rt rs imm => Sys2Proof.Machine.execAndi rt rs imm s
  | .ori rt rs imm => Sys2Proof.Machine.execOri rt rs imm s
  | .xori rt rs imm => Sys2Proof.Machine.execXori rt rs imm s
  | .aui rt rs imm => Sys2Proof.Machine.execAui rt rs imm s
  | .cop1 => Sys2Proof.Machine.execCop1 s
  | .blezc rt imm => Sys2Proof.Machine.execBlezc rt imm s
  | .bgezc rt imm => Sys2Proof.Machine.execBgezc rt imm s
  | .bgec rs rt imm => Sys2Proof.Machine.execBgec rs rt imm s
  | .pop26Nop => Sys2Proof.Machine.execPop26Nop s
  | .bgtzc rt imm => Sys2Proof.Machine.execBgtzc rt imm s
  | .bltzc rt imm => Sys2Proof.Machine.execBltzc rt imm s
  | .bltc rs rt imm => Sys2Proof.Machine.execBltc rs rt imm s
  | .pop27Nop => Sys2Proof.Machine.execPop27Nop s
  | .bnezalc rt imm => Sys2Proof.Machine.execBnezalc rt imm s
  | .bnec rs rt imm => Sys2Proof.Machine.execBnec rs rt imm s
  | .bnvc rs rt imm => Sys2Proof.Machine.execBnvc rs rt imm s
  | .ext rt rs lsb msbd => Sys2Proof.Machine.execExt rt rs lsb msbd s
  | .ins rt rs lsb msb => Sys2Proof.Machine.execIns rt rs lsb msb s
  | .bitswap rd rt => Sys2Proof.Machine.execBitswap rd rt s
  | .wsbh rd rt => Sys2Proof.Machine.execWsbh rd rt s
  | .align rd rs rt bp => Sys2Proof.Machine.execAlign rd rs rt bp s
  | .seb rd rt => Sys2Proof.Machine.execSeb rd rt s
  | .seh rd rt => Sys2Proof.Machine.execSeh rd rt s
  | .lb rt imm rs => Sys2Proof.Machine.execLb rt imm rs s
  | .lh rt imm rs => Sys2Proof.Machine.execLh rt imm rs s
  | .lw rt imm rs => Sys2Proof.Machine.execLw rt imm rs s
  | .lbu rt imm rs => Sys2Proof.Machine.execLbu rt imm rs s
  | .lhu rt imm rs => Sys2Proof.Machine.execLhu rt imm rs s
  | .sb rt imm rs => Sys2Proof.Machine.execSb rt imm rs s
  | .sh rt imm rs => Sys2Proof.Machine.execSh rt imm rs s
  | .sw rt imm rs => Sys2Proof.Machine.execSw rt imm rs s
  | .bc address => Sys2Proof.Machine.execBc address s
  | .jic rt imm => Sys2Proof.Machine.execJic rt imm s
  | .beqzc rs imm21 => Sys2Proof.Machine.execBeqzc rs imm21 s
  | .balc address => Sys2Proof.Machine.execBalc address s
  | .addiupc rs imm19 => Sys2Proof.Machine.execAddiupc rs imm19 s
  | .lwpc rs imm19 => Sys2Proof.Machine.execLwpc rs imm19 s
  | .auipc rs imm => Sys2Proof.Machine.execAuipc rs imm s
  | .aluipc rs imm => Sys2Proof.Machine.execAluipc rs imm s
  | .jialc rt imm => Sys2Proof.Machine.execJialc rt imm s
  | .bnezc rs imm21 => Sys2Proof.Machine.execBnezc rs imm21 s

end Sys2Proof.Machine
end

