-- ==== Sys2Proof/Machine/HostAccess.lean ====
section
/-! DEFINITION. What the host may do between steps: the register-file contract of spec/10_state.md R35, and the
loading of a program (spec/70_reset_and_hazards.md R382). No step calls any of it. -/

namespace Sys2Proof.Machine

/-- The two views of a general register that `get(idx)` returns (R22). -/
structure RegView where
  unsigned : Nat
  signed : Int
deriving DecidableEq, Repr

/-- `get(idx)` (R22). -/
def State.hostGet (s : State) (r : Reg) : RegView := ⟨(s.reg r).toNat, (s.reg r).toInt⟩

/-- `set_signed(idx, v)`: the pattern of `v` modulo 2^32; dropped for register 0 (R22; for `v` outside 32 bits
DESIGN CHOICE, log entry 14). -/
def State.hostSetSigned (s : State) (r : Reg) (v : Int) : State := s.setReg r (BitVec.ofInt 32 v)

/-- `set_unsigned(idx, v)`: `v` modulo 2^32; dropped for register 0 (R22; log entry 14). -/
def State.hostSetUnsigned (s : State) (r : Reg) (v : Nat) : State := s.setReg r (BitVec.ofNat 32 v)

/-- `get_pc()`. -/
def State.hostGetPc (s : State) : Word := s.pc

/-- `set_pc(v)`. -/
def State.hostSetPc (s : State) (v : Word) : State := s.jump v

/-- `update_pc()` from outside (R27, R35). -/
def State.hostUpdatePc (s : State) : State := s.updatePc

/-- `delayed_branch(target)` from outside; a target that is already armed is replaced
(spec/70_reset_and_hazards.md R391; log entry 14). -/
def State.hostDelayedBranch (s : State) (t : Word) : State := s.delayedBranch t

/-- `signal_exception(cause, raw)` from outside (R33, R35). -/
def State.hostSignalException (s : State) (cause : Cause) (raw : Word) : State :=
  s.signalException cause raw

/-- The poll of the exception record (R33). -/
def State.hostReadException (s : State) : Option ExcRecord := s.exc

/-- The host's clearing of the exception record, which the core never does (R33, D20; log entry 14). -/
def State.hostClearException (s : State) : State := { s with exc := none }

/-- The boolean the step-control interface answers for the last step, and `none` before any step
(spec/40_step.md R125, R129). -/
def State.hostStepAnswer (s : State) : Option Bool :=
  match s.answer with
  | .idle => none
  | .success => some true
  | .failure _ => some false

/-- The word's four bytes mapped, if they are not: the memory the host provides
(R382 (1)). -/
def State.mapWord (s : State) (a : Word) : State :=
  if acceptsRequest s.config a .word then s
  else { s with config := { s.config with mapped := ⟨a.toNat, a.toNat + 3⟩ :: s.config.mapped } }

/-- Loading program words from an address upward, in the memory's byte order (R382 (1)). -/
def State.hostLoadWords (s : State) (addr : Word) : List Word → State
  | [] => s
  | w :: rest => (s.placeValue addr .word w).hostLoadWords (addr + 4#32) rest

end Sys2Proof.Machine
end

