-- ==== Sys2Proof/Machine/Step.lean ====
section
/-! DEFINITION. The one transition of the machine (spec/40_step.md R120), and the host's placing of an instruction
where the next step fetches. -/

namespace Sys2Proof.Machine

/-- `step` (R120): fetch, decode, run the one meaning, which performs `update_pc()` and the handler. A fetch
error changes nothing (R121). -/
def step (s : State) : Host.Outcome State Fault Refusal :=
  match s.fetch with
  | none => failStep .fetchError s
  | some w =>
    match decode w with
    | .error r => rejectStep r s
    | .ok i => exec i s

/-- `s` with the instruction whose bits are the low `nbits` of `w` stored where the next step fetches: at `pc`,
made a multiple of 4 and mapped if it is not, which the fetch needs (spec/70_reset_and_hazards.md R382; log entry 15). -/
def State.withFetchWord (s : State) (nbits w : Nat) : State :=
  let a := s.pc &&& 0xFFFFFFFC#32
  ((s.jump a).mapWord a).placeValue a .word (BitVec.ofNat 32 (w % 2 ^ nbits))

end Sys2Proof.Machine
end

