-- ==== Sys2Proof/Safety.lean ====
section
/-! DEFINITION. The terms claims use: what a step leaves unchanged, in the words of the instruction rules; which
instructions may write what; the invariant of the machine; and the end of a run. -/

namespace Sys2Proof.Machine

/-! ## Frames -/

/-- `pc` after `update_pc()`, said of the fields: the pending target, else `pc + 4` modulo 2^32
(spec/10_state.md R27). In an instruction's step this is `cpc`. -/
def State.updatedPc (s : State) : Word := s.dbt.getD (s.pc + 4#32)

/-- No byte of memory reads differently, no parameter and not the exception record changed. -/
structure Keeps (s t : State) : Prop where
  memory : ∀ a : Nat, t.mem.readByte a = s.mem.readByte a
  config : t.config = s.config
  exc : t.exc = s.exc

/-- The step completes, writes `v` to register `r` (nothing when `r` is 0, which reads 0) and nothing else but
`update_pc()`. -/
structure WritesReg (s t : State) (r : Reg) (v : Word) : Prop where
  answer : t.answer = .success
  pc : t.pc = s.updatedPc
  dbt : t.dbt = none
  result : t.reg r = if r = 0 then 0#32 else v
  others : ∀ q : Reg, q ≠ r → t.reg q = s.reg q
  keeps : Keeps s t

/-- The step completes with `pc` and `dbt` as given and writes no register. -/
structure Transfers (s t : State) (pc : Word) (dbt : Option Word) : Prop where
  answer : t.answer = .success
  pc : t.pc = pc
  dbt : t.dbt = dbt
  regs : ∀ q : Reg, t.reg q = s.reg q
  keeps : Keeps s t

/-- The step completes with `pc` and `dbt` as given and writes `cpc` to register 31 and no other. -/
structure TransfersLinking (s t : State) (pc : Word) (dbt : Option Word) : Prop where
  answer : t.answer = .success
  pc : t.pc = pc
  dbt : t.dbt = dbt
  link : t.reg 31 = s.updatedPc
  others : ∀ q : Reg, q ≠ 31 → t.reg q = s.reg q
  keeps : Keeps s t

/-- The step answers false for `reason`; `update_pc()` has run and nothing else is changed
(spec/40_step.md R123, R125). -/
structure FailsWith (s t : State) (reason : FailReason) : Prop where
  answer : t.answer = .failure reason
  pc : t.pc = s.updatedPc
  dbt : t.dbt = none
  regs : ∀ q : Reg, t.reg q = s.reg q
  keeps : Keeps s t

/-- The step traps: as a failure, but for `exc <- (trap, raw)` (spec/60_exceptions.md R352). -/
structure Traps (s t : State) (raw : Word) : Prop where
  answer : t.answer = .failure .trap
  exc : t.exc = some ⟨.trap, raw⟩
  pc : t.pc = s.updatedPc
  dbt : t.dbt = none
  regs : ∀ q : Reg, t.reg q = s.reg q
  memory : ∀ a : Nat, t.mem.readByte a = s.mem.readByte a
  config : t.config = s.config

/-- Which byte of a value of `n` bytes lies at offset `k` from its address, and which offset holds its byte `k`:
the value's byte `k` counts from the least significant under little and from the most significant under big
(spec/20_memory.md R53, R68). -/
def byteLane (e : Endian) (n k : Nat) : Nat :=
  match e with
  | .little => k
  | .big => n - 1 - k

/-- The step completes having stored: the `n` bytes from address `a` upward are the `n` low bytes of `v` in the
memory's byte order, every other byte reads as before, and no register is written. -/
structure StoresAt (s t : State) (a n : Nat) (v : Word) : Prop where
  answer : t.answer = .success
  pc : t.pc = s.updatedPc
  dbt : t.dbt = none
  regs : ∀ q : Reg, t.reg q = s.reg q
  exc : t.exc = s.exc
  config : t.config = s.config
  stored : ∀ k : Nat, k < n → t.mem.readByte (a + k) =
    v.extractLsb' (8 * byteLane s.config.endian n k) 8
  memory : ∀ b : Nat, ¬(a ≤ b ∧ b < a + n) → t.mem.readByte b = s.mem.readByte b

/-- The value a request of `n` bytes at `a` reads, bit by bit: byte `k` of the value is the byte at `a + k` under
little and at `a + n - 1 - k` under big, and bits from `8n` up are 0 (spec/20_memory.md R53, R68). -/
def ReadsAs (s : State) (a n : Nat) (v : Word) : Prop :=
  v.toNat < 2 ^ (8 * n) ∧ ∀ k : Nat, k < n → v.extractLsb' (8 * k) 8 =
    s.mem.readByte (a + byteLane s.config.endian n k)

/-- `base + off` modulo 2^32, computed on integers (spec/00_scope.md R9). -/
def relTarget (base : Word) (off : Int) : Word := BitVec.ofInt 32 (base.toNat + off)

/-- The `n` bytes from `addr` upward are all mapped (spec/20_memory.md R55). -/
def MappedAt (s : State) (addr : Word) (n : Nat) : Prop :=
  ∀ k : Nat, k < n → isMapped s.config (addr.toNat + k) = true

/-! ## Who may write what -/

/-- The conditional traps (spec/42_special_muldiv_jump_trap.md R202). -/
def isTrap : Instr → Bool
  | .teq .. | .tne .. | .tge .. | .tgeu .. | .tlt .. | .tltu .. => true
  | _ => false

/-- The ten legacy transfers, which arm `dbt` (spec/70_reset_and_hazards.md R383). -/
def isLegacyTransfer : Instr → Bool
  | .j .. | .jal .. | .jr .. | .jalr .. | .beq .. | .bne .. | .blez .. | .bgtz .. | .bltz .. | .bgez .. => true
  | _ => false

/-- The compact branches and jumps, which write `pc` after `update_pc()` (spec/10_state.md R26). -/
def isCompactTransfer : Instr → Bool
  | .bc .. | .balc .. | .jic .. | .jialc .. | .beqzc .. | .bnezc .. => true
  | .blezalc .. | .bgezalc .. | .bgeuc .. | .bgtzalc .. | .bltzalc .. | .bltuc .. => true
  | .beqzalc .. | .beqc .. | .bovc .. | .bnezalc .. | .bnec .. | .bnvc .. => true
  | .blezc .. | .bgezc .. | .bgec .. | .bgtzc .. | .bltzc .. | .bltc .. => true
  | _ => false

/-- The address and size of the one store an instruction issues (spec/20_memory.md R51). -/
def storeRequest (s : State) : Instr → Option (Word × AccessSize)
  | .sb _ imm rs => some (effectiveAddress (s.reg rs) imm, .byte)
  | .sh _ imm rs => some (effectiveAddress (s.reg rs) imm, .half)
  | .sw _ imm rs => some (effectiveAddress (s.reg rs) imm, .word)
  | _ => none

/-- The one register an instruction may write (spec/10_state.md R24): register 31 for the link instructions,
`rd` for SPECIAL and BSHFL, `rt` for I-type arithmetic, loads, EXT and INS, `rs` for the PC-relative four. -/
def destination : Instr → Option Reg
  | .jal .. | .jalr .. | .balc .. | .jialc .. | .blezalc .. | .bgezalc .. | .bgtzalc .. | .bltzalc ..
  | .beqzalc .. | .bnezalc .. => some 31
  | .sll rd .. | .srl rd .. | .rotr rd .. | .sra rd .. | .sllv rd .. | .srlv rd .. | .rotrv rd .. | .srav rd ..
  | .clz rd .. | .clo rd .. | .mul rd .. | .muh rd .. | .mulu rd .. | .muhu rd .. | .div rd .. | .mod rd ..
  | .divu rd .. | .modu rd .. | .add rd .. | .addu rd .. | .sub rd .. | .subu rd .. | .and rd .. | .or rd ..
  | .xor rd .. | .nor rd .. | .slt rd .. | .sltu rd .. | .seleqz rd .. | .selnez rd .. => some rd
  | .bitswap rd .. | .wsbh rd .. | .align rd .. | .seb rd .. | .seh rd .. => some rd
  | .addiu rt .. | .slti rt .. | .sltiu rt .. | .andi rt .. | .ori rt .. | .xori rt .. | .aui rt .. => some rt
  | .lb rt .. | .lh rt .. | .lw rt .. | .lbu rt .. | .lhu rt .. | .ext rt .. | .ins rt .. => some rt
  | .addiupc rs .. | .lwpc rs .. | .auipc rs .. | .aluipc rs .. => some rs
  | _ => none

/-! ## Invariant and end of a run -/

/-- The memory is in its canonical form and lists only addresses the memory accepts, so that states with equal
contents are equal data and no byte exists outside `MAPPED` (spec/20_memory.md R68). -/
def State.Inv (s : State) : Prop := s.mem.wf ∧ ∀ c ∈ s.mem.cells, isMapped s.config c.1 = true

/-- The last step answered false: where a claim about a run takes the run to end (spec/40_step.md R127). -/
def State.ended (s : State) : Bool := s.hostStepAnswer == some false

/-- At most `k` steps, ending after the first that answers false (R127, D21). -/
def runToFalse : Nat → State → Result
  | 0, s => .next s
  | k + 1, s =>
    match step s with
    | .next t => if t.ended then .next t else runToFalse k t
    | .fault r => .fault r
    | .refused r => .refused r

end Sys2Proof.Machine
end

