-- ==== Sys2Proof/Certificates/Slice0/Obligations.lean ====
section
/-! DEFINITION. The statements for the provers. Each docstring names the rules of spec/ it formalises or rests
on. A statement about an instruction has two parts: which words are that instruction, and that `exec` of it
answers a next state, which one, and what it leaves unchanged (`WritesReg`, `Transfers`, `TransfersLinking`,
`FailsWith`, `Traps`, `StoresAt` of Sys2Proof/Safety.lean name every field of the state). In every one of them
`s` is the state before the step, so `s.pc` is `iaddr` and `s.updatedPc` is `cpc` (spec/40_step.md R122). -/

open Sys2Proof Sys2Proof.Machine

/-! ## Words and instructions -/

/-- A few words written out from the encodings of spec/30_encoding.md R98 to R102, the words of the spec's own
examples, one or two of every family. -/
def Obligations.SampleWordsDecode : Prop :=
  decode 0x01095020#32 = .ok (.add 10 8 9) ∧ decode 0x00285242#32 = .ok (.rotr 10 8 9) ∧
  decode 0x010950D8#32 = .ok (.muh 10 8 9) ∧ decode 0x01095574#32 = .ok (.teq 8 9 0x155#10) ∧
  decode 0x0100F809#32 = .ok (.jalr 8) ∧ decode 0x1109FFFE#32 = .ok (.beq 8 9 0xFFFE#16) ∧
  decode 0x1929FFF0#32 = .ok (.bgezalc 9 0xFFF0#16) ∧ decode 0x21280010#32 = .ok (.bovc 9 8 0x10#16) ∧
  decode 0x8D09FFFC#32 = .ok (.lw 9 0xFFFC#16 8) ∧ decode 0x0501FFF8#32 = .ok (.bgez 8 0xFFF8#16) ∧
  decode 0xEBFFFFF0#32 = .ok (.balc 0x3FFFFF0#26) ∧ decode 0x7D0952E0#32 = .ok (.align 10 8 9 3) ∧
  decode 0x7D0A5A00#32 = .ok (.ext 10 8 8 11) ∧ decode 0xED1E1234#32 = .ok (.auipc 8 0x1234#16) ∧
  decode 0xD910FFFF#32 = .ok (.beqzc 8 0x10FFFF#21) ∧ decode 0x44080000#32 = .ok .cop1 ∧
  decode 0x00000000#32 = .ok (.sll 0 0 0) ∧ decode 0x0000000C#32 = .error .unrecognisedOp ∧
  decode 0x7C08503B#32 = .error .decodeError

/-- Decode and encode agree, for every well-formed instruction with every operand at every value its field
admits; and whatever the decoder answers is well-formed (spec/30_encoding.md sections 1 to 3). -/
def Obligations.DecodeInvertsEncode : Prop :=
  (∀ i : Instr, i.wellFormed = true → decode (encode i) = .ok i) ∧
  (∀ (w : Word) (i : Instr), decode w = .ok i → i.wellFormed = true)

/-- Every word either selects exactly one row of the opcode table, and the decoder answers that row's
instruction, or selects no row, and the decoder rejects it (spec/30_encoding.md R112, the spec's own inference).
-/
def Obligations.EveryWordSelectsOneRowOrIsIllegal : Prop :=
  opcodeTable.length = 99 ∧
  (∀ (w : Word) (r q : Row), r ∈ opcodeTable → q ∈ opcodeTable → r.selects w = true → q.selects w = true →
    r = q) ∧
  (∀ (w : Word) (i : Instr), decode w = .ok i →
    ∃ r ∈ opcodeTable, r.selects w = true ∧ r.mnemonic = i.mnemonic) ∧
  (∀ (w : Word) (r : Row), r ∈ opcodeTable → r.selects w = true →
    ∃ i, decode w = .ok i ∧ i.mnemonic = r.mnemonic) ∧
  (∀ w : Word, (∀ r ∈ opcodeTable, r.selects w = false) → ∃ e, decode w = .error e)

/-- A field the row does not list as an operand has no effect (spec/30_encoding.md R105, the spec's own
inference). Two words that the same row selects and that agree on the row's operand fields decode to the same
instruction. (For a trap row the operand fields include bits 15..6, which the recorded raw word shows, R202.) -/
def Obligations.IgnoredFieldsHaveNoEffect : Prop :=
  ∀ (r : Row) (w v : Word), r ∈ opcodeTable → r.selects w = true → r.selects v = true →
    w &&& r.operands = v &&& r.operands → decode w = decode v

/-! ## Memory -/

/-- R56: what an accepted store wrote is what a read of the same size returns, at once and in every later state
in which no byte of the request reads differently. The premise `s.mem.wf` is the canonical form, which every step
keeps. -/
def Obligations.StoreThenReadReturnsTheValue : Prop :=
  ∀ (s t u : State) (a v : Word) (n : AccessSize), s.mem.wf → s.memWrite a n v = some t →
    u.config = t.config →
    (∀ b : Nat, a.toNat ≤ b → b < a.toNat + n.bytes → u.mem.readByte b = t.mem.readByte b) →
    u.memRead a n = some (v &&& BitVec.ofNat 32 (2 ^ (8 * n.bytes) - 1))

/-- What byte and half-word reads see of a stored word, under each byte order (spec/20_memory.md R53): under
little the byte at offset `k` is bits `8k+7..8k`, under big bits `31-8k..24-8k`; the half-word at offset `2h`
is bits `16h+15..16h`, under big bits `31-16h..16-16h`. -/
def Obligations.NarrowReadsOfAStoredWord : Prop :=
  ∀ (s t : State) (a v : Word), s.mem.wf → s.memWrite a .word v = some t →
    (∀ k : Nat, k < 4 → t.memRead (a + BitVec.ofNat 32 k) .byte =
      some (match s.config.endian with
        | .little => (v.extractLsb' (8 * k) 8).zeroExtend 32
        | .big => (v.extractLsb' (24 - 8 * k) 8).zeroExtend 32)) ∧
    (∀ h : Nat, h < 2 → t.memRead (a + BitVec.ofNat 32 (2 * h)) .half =
      some (match s.config.endian with
        | .little => (v.extractLsb' (16 * h) 16).zeroExtend 32
        | .big => (v.extractLsb' (16 - 16 * h) 16).zeroExtend 32))

/-- A request is an access error exactly when its address is not a multiple of its size or one of its
bytes is not mapped, for reads and writes alike; and an accepted write changes no byte outside the
request, no register, and not `pc`, `dbt` or `exc` (spec/20_memory.md R54, R55, R58; natural alignment is the
spec's decision D3, the mapped set and the failed store D4). -/
def Obligations.AccessErrorsAndStoreFrame : Prop :=
  ∀ (s : State) (a v : Word) (n : AccessSize),
    (s.memRead a n = none ↔ a.toNat % n.bytes ≠ 0 ∨ ¬MappedAt s a n.bytes) ∧
    (s.memWrite a n v = none ↔ a.toNat % n.bytes ≠ 0 ∨ ¬MappedAt s a n.bytes) ∧
    (∀ t, s.mem.wf → s.memWrite a n v = some t →
      (∀ b : Nat, ¬(a.toNat ≤ b ∧ b < a.toNat + n.bytes) → t.mem.readByte b = s.mem.readByte b) ∧
      (∀ q : Reg, t.reg q = s.reg q) ∧ t.pc = s.pc ∧ t.dbt = s.dbt ∧ t.exc = s.exc ∧ t.config = s.config)

/-! ## The step -/

/-- A step runs the decoded instruction: when the four bytes at an aligned, mapped `pc`, in the memory's byte
order, are the word `w`, and `w` decodes to `i`, the step is `exec i` at that state. `exec` itself performs the
step's `update_pc()` (spec/40_step.md R120, R124). -/
def Obligations.StepRunsTheDecodedInstruction : Prop :=
  ∀ (s : State) (w : Word) (i : Instr), s.pc.toNat % 4 = 0 → MappedAt s s.pc 4 → ReadsAs s s.pc.toNat 4 w →
    decode w = .ok i → step s = exec i s

/-- Every step answers, true or false, in every state: the machine has no halted state, and no instruction
stops it (R127; spec/40_step.md R125). That a failing step is a next state and not a fault of the model is the
model's choice (log entry 5). -/
def Obligations.EveryStepAnswers : Prop :=
  ∀ s : State, ∃ t, step s = .next t ∧ (t.answer = .success ∨ ∃ r, t.answer = .failure r)

/-- R121: a misaligned or unmapped `pc` fails the step with FetchError and changes no state at all: not `pc`,
not a pending branch, not `exc`, no register, no byte; and a step repeated there fails again in the same way. -/
def Obligations.FetchErrorChangesNothing : Prop :=
  ∀ s : State, s.pc.toNat % 4 ≠ 0 ∨ ¬MappedAt s s.pc 4 →
    ∃ t, step s = .next t ∧ t.answer = .failure .fetchError ∧ t.pc = s.pc ∧ t.dbt = s.dbt ∧
      (∀ q : Reg, t.reg q = s.reg q) ∧ Keeps s t ∧ step t = .next t

/-- A word that selects no row of the opcode table fails the step, records nothing and changes nothing but
`pc` and `dbt`; the reason is DecodeError or UnrecognisedOp, and DivideByZero for a SOP32 or SOP33 word whose
divisor register is 0, whatever its `shamt` (spec/30_encoding.md R106, whose SOP case is the spec's decision D8;
R180, R355; log entry 12). -/
def Obligations.IllegalWordsFailTheStep : Prop :=
  ∀ (s : State) (w : Word), s.fetch = some w → (∀ r ∈ opcodeTable, r.selects w = false) →
    ∃ t reason, step s = .next t ∧ FailsWith s t reason ∧
      (reason = .decodeError ∨ reason = .unrecognisedOp ∨ reason = .divideByZero) ∧
      (reason = .divideByZero ↔ opField w = 0#6 ∧ (funcField w = 26#6 ∨ funcField w = 27#6) ∧
        s.reg (rtField w) = 0#32)

/-- A failing step leaves changed only what the table of R125 lists: no register, no byte of memory and no
parameter; `exc` only when it traps; `pc` and `dbt` by `update_pc()`, and not even those when the fetch failed
(spec/40_step.md R123, R126, the spec's own inferences; the reasons' names are D14). -/
def Obligations.FailingStepChangesOnlyPcDbtAndExc : Prop :=
  ∀ (s t : State) (r : FailReason), step s = .next t → t.answer = .failure r →
    (∀ q : Reg, t.reg q = s.reg q) ∧ (∀ a : Nat, t.mem.readByte a = s.mem.readByte a) ∧
    t.config = s.config ∧ (r ≠ .trap → t.exc = s.exc) ∧
    (r = .fetchError → t.pc = s.pc ∧ t.dbt = s.dbt) ∧ (r ≠ .fetchError → t.pc = s.updatedPc ∧ t.dbt = none)

/-- Only a trap changes `exc` (spec/60_exceptions.md R350, R352; R202). If a step changes it, or answers Trap,
the fetched word is one of the six trap instructions, and `exc` now holds the cause `trap` and that very word.
-/
def Obligations.OnlyTrapsRecordAnException : Prop :=
  ∀ s t : State, step s = .next t → (t.exc ≠ s.exc ∨ t.answer = .failure .trap) →
    ∃ w i, s.fetch = some w ∧ decode w = .ok i ∧ isTrap i = true ∧ t.answer = .failure .trap ∧
      t.exc = some ⟨.trap, w⟩

/-- The link instructions write register 31 and every other register write goes to the register its field
names; a step changes no other register (spec/10_state.md R24). -/
def Obligations.StepsWriteOnlyTheDestination : Prop :=
  ∀ (s t : State) (q : Reg), step s = .next t → t.reg q ≠ s.reg q →
    ∃ w i, s.fetch = some w ∧ decode w = .ok i ∧ destination i = some q

/-- After a fetch, `pc` is what `update_pc()` made it, unless the instruction is one of the compact branches
and jumps (spec/10_state.md R26). -/
def Obligations.OnlyCompactTransfersWritePc : Prop :=
  ∀ (s t : State) (w : Word), s.fetch = some w → step s = .next t → t.pc ≠ s.updatedPc →
    ∃ i, decode w = .ok i ∧ isCompactTransfer i = true

/-- After a fetch the pending slot is empty unless the instruction is one of the ten legacy transfers
(spec/70_reset_and_hazards.md R383). -/
def Obligations.OnlyLegacyTransfersArmTheSlot : Prop :=
  ∀ (s t : State) (w : Word), s.fetch = some w → step s = .next t → t.dbt ≠ none →
    ∃ i, decode w = .ok i ∧ isLegacyTransfer i = true ∧ t.pc = s.updatedPc ∧ t.answer = .success

/-- Only SB, SH and SW change memory, and only the bytes of their one request (spec/20_memory.md R51). The
premise is the canonical form, which every step keeps. -/
def Obligations.OnlyStoresChangeMemory : Prop :=
  ∀ (s t : State) (b : Nat), s.mem.wf → step s = .next t → t.mem.readByte b ≠ s.mem.readByte b →
    ∃ w i a n, s.fetch = some w ∧ decode w = .ok i ∧ storeRequest s i = some (a, n) ∧
      a.toNat ≤ b ∧ b < a.toNat + n.bytes

/-- No step reads the exception record or the last answer: from two states that differ only there, a step gives
two states that differ only there, with the same answer (R33: no rule of the core reads `exc`). -/
def Obligations.ExceptionRecordIsNeverRead : Prop :=
  ∀ (s t : State) (e : Option ExcRecord) (a : Answer), step s = .next t →
    ∃ t', step { s with exc := e, answer := a } = .next t' ∧ t'.regs = t.regs ∧ t'.pc = t.pc ∧ t'.dbt = t.dbt ∧
      t'.mem = t.mem ∧ t'.config = t.config ∧ t'.answer = t.answer ∧
      (t.answer = .failure .trap → t'.exc = t.exc) ∧ (t.answer ≠ .failure .trap → t'.exc = e)

/-- Every step keeps the invariant `State.Inv`: the memory stays in its canonical form and lists only mapped
addresses. The canonical form is the model's own, no rule of the spec (DESIGN CHOICE, log entry 21). That no byte
is listed outside `MAPPED` says of it what spec/20_memory.md R68 says of the reference memory. And no step changes
a parameter; for the byte order that is spec/20_memory.md R53 (the spec's decision D2). -/
def Obligations.StepKeepsMemoryCanonicalAndParameters : Prop :=
  ∀ s t : State, step s = .next t → t.config = s.config ∧ (s.Inv → t.Inv)

/-- The invariant `State.Inv` holds right after reset. This is about the model's own choices: that reset memory
lists nothing (DESIGN CHOICE, log entry 3; the spec leaves the content to the host) and the canonical form
(DESIGN CHOICE, log entry 21). -/
def Obligations.ResetIsCanonical : Prop := State.reset.Inv

/-- Every register 0, `pc` 0, nothing pending, nothing recorded (spec/70_reset_and_hazards.md R380; the spec's
decision D17 reads the document's "zero-initialised" so). (That the memory lists nothing, and the parameters'
reference values, are the model's choices, log entries 1 to 4; nothing is said of them here.) -/
def Obligations.ResetState : Prop :=
  (∀ q : Reg, State.reset.reg q = 0#32) ∧ State.reset.pc = 0#32 ∧ State.reset.dbt = none ∧ State.reset.exc = none

/-- A word placed where the next step fetches is the word it fetches, from any state; registers, `dbt` and `exc`
are untouched (the host's loading, spec/70_reset_and_hazards.md R382; the model's form of it, log entry 15). -/
def Obligations.PlacedWordIsFetched : Prop :=
  ∀ (s : State) (w : Word), s.mem.wf →
    (s.withFetchWord 32 w.toNat).fetch = some w ∧ (∀ q : Reg, (s.withFetchWord 32 w.toNat).reg q = s.reg q) ∧
    (s.withFetchWord 32 w.toNat).dbt = s.dbt ∧ (s.withFetchWord 32 w.toNat).exc = s.exc ∧
    (s.pc.toNat % 4 = 0 → (s.withFetchWord 32 w.toNat).pc = s.pc)

/-! ## The register file and the pending slot -/

/-- R21: register 0 reads 0 in every state and drops every write, the host's too; and a write to another register
changes that register alone, to the value written. (What an instruction does when its destination is register 0
stands in its own statement: `WritesReg` with `r = 0`.) -/
def Obligations.RegisterZeroAndRegisterWrites : Prop :=
  ∀ (s : State) (r q : Reg) (v : Word), s.reg 0 = 0#32 ∧ s.setReg 0 v = s ∧
    (∀ i : Int, s.hostSetSigned 0 i = s) ∧ (∀ n : Nat, s.hostSetUnsigned 0 n = s) ∧
    (r ≠ 0 → (s.setReg r v).reg r = v) ∧ (q ≠ r → (s.setReg r v).reg q = s.reg q)

/-- `set_signed(i, v)` and then `get(i)` returns `v` as its signed view, for `i` other than 0 and `v` in range,
and `set_unsigned(i, v)` likewise its unsigned view; and both store the same pattern for equivalent inputs,
those equal modulo 2^32 (spec/10_state.md R22). For an input outside 32 bits that is the model's choice (DESIGN
CHOICE, log entry 14): spec/93_implementation_defined.md U23 lets a model store it modulo 2^32 or refuse. -/
def Obligations.HostRegisterViewsRoundTrip : Prop :=
  ∀ (s : State) (r : Reg), r ≠ 0 →
    (∀ v : Int, -2 ^ 31 ≤ v → v < 2 ^ 31 → ((s.hostSetSigned r v).hostGet r).signed = v) ∧
    (∀ v : Nat, v < 2 ^ 32 → ((s.hostSetUnsigned r v).hostGet r).unsigned = v) ∧
    (∀ (v : Int) (u : Nat), (u : Int) % 2 ^ 32 = v % 2 ^ 32 → s.hostSetSigned r v = s.hostSetUnsigned r u)

/-- After `delayed_branch(T)` exactly one `update_pc()` moves to `T`, and a second advances from `T` by 4; with
nothing pending `update_pc()` advances by 4 modulo 2^32 (spec/10_state.md R27, R30, R31). -/
def Obligations.PendingBranchCommitsOnce : Prop :=
  ∀ (s : State) (T : Word),
    ((s.delayedBranch T).updatePc.pc = T ∧ (s.delayedBranch T).updatePc.dbt = none ∧
      (s.delayedBranch T).updatePc.updatePc.pc.toNat = (T.toNat + 4) % 2 ^ 32) ∧
    (s.dbt = none → s.updatePc.pc.toNat = (s.pc.toNat + 4) % 2 ^ 32 ∧ s.updatePc.dbt = none)

/-- A taken legacy transfer takes effect after its delay slot: if a step leaves `T` pending, and the next step
passes its fetch and decodes to no compact transfer, that next step ends with `pc = T`, whether it succeeds,
fails or traps (spec/70_reset_and_hazards.md R383, R386 (d), R390). -/
def Obligations.DelaySlotThenTarget : Prop :=
  ∀ (s t u : State) (T w : Word), step s = .next t → t.dbt = some T → t.fetch = some w → step t = .next u →
    (∀ i, decode w = .ok i → isCompactTransfer i = false) → u.pc = T

/-! ## SPECIAL: arithmetic, logic, shifts, compares, selects, counts -/

/-- R140 to R143: ADD and ADDU write the sum, SUB and SUBU the difference, modulo 2^32; no overflow is detected,
none fails, and nothing else changes. -/
def Obligations.AddAndSubtractWrap : Prop :=
  (∀ w : Word, opField w = 0#6 →
    (funcField w = 32#6 → decode w = .ok (.add (rdField w) (rsField w) (rtField w))) ∧
    (funcField w = 33#6 → decode w = .ok (.addu (rdField w) (rsField w) (rtField w))) ∧
    (funcField w = 34#6 → decode w = .ok (.sub (rdField w) (rsField w) (rtField w))) ∧
    (funcField w = 35#6 → decode w = .ok (.subu (rdField w) (rsField w) (rtField w)))) ∧
  ∀ (s : State) (rd rs rt : Reg),
    (∃ t v, exec (.add rd rs rt) s = .next t ∧ WritesReg s t rd v ∧
      v.toNat = ((s.reg rs).toNat + (s.reg rt).toNat) % 2 ^ 32) ∧
    (∃ t v, exec (.addu rd rs rt) s = .next t ∧ WritesReg s t rd v ∧
      v.toNat = ((s.reg rs).toNat + (s.reg rt).toNat) % 2 ^ 32) ∧
    (∃ t v, exec (.sub rd rs rt) s = .next t ∧ WritesReg s t rd v ∧
      (v.toNat : Int) = ((s.reg rs).toNat - (s.reg rt).toNat : Int) % 2 ^ 32) ∧
    (∃ t v, exec (.subu rd rs rt) s = .next t ∧ WritesReg s t rd v ∧
      (v.toNat : Int) = ((s.reg rs).toNat - (s.reg rt).toNat : Int) % 2 ^ 32)

/-- R144 to R147: AND, OR, XOR and NOR, bit by bit. -/
def Obligations.BitwiseLogic : Prop :=
  (∀ w : Word, opField w = 0#6 →
    (funcField w = 36#6 → decode w = .ok (.and (rdField w) (rsField w) (rtField w))) ∧
    (funcField w = 37#6 → decode w = .ok (.or (rdField w) (rsField w) (rtField w))) ∧
    (funcField w = 38#6 → decode w = .ok (.xor (rdField w) (rsField w) (rtField w))) ∧
    (funcField w = 39#6 → decode w = .ok (.nor (rdField w) (rsField w) (rtField w)))) ∧
  ∀ (s : State) (rd rs rt : Reg),
    (∃ t v, exec (.and rd rs rt) s = .next t ∧ WritesReg s t rd v ∧
      ∀ k < 32, v.getLsbD k = ((s.reg rs).getLsbD k && (s.reg rt).getLsbD k)) ∧
    (∃ t v, exec (.or rd rs rt) s = .next t ∧ WritesReg s t rd v ∧
      ∀ k < 32, v.getLsbD k = ((s.reg rs).getLsbD k || (s.reg rt).getLsbD k)) ∧
    (∃ t v, exec (.xor rd rs rt) s = .next t ∧ WritesReg s t rd v ∧
      ∀ k < 32, v.getLsbD k = ((s.reg rs).getLsbD k ^^ (s.reg rt).getLsbD k)) ∧
    (∃ t v, exec (.nor rd rs rt) s = .next t ∧ WritesReg s t rd v ∧
      ∀ k < 32, v.getLsbD k = !((s.reg rs).getLsbD k || (s.reg rt).getLsbD k))

/-- R148, R149, R152, R154: logical shifts of `x[rt]` by `shamt`, or by the low five bits of `x[rs]`. -/
def Obligations.LogicalShifts : Prop :=
  (∀ w : Word, opField w = 0#6 →
    (funcField w = 0#6 → decode w = .ok (.sll (rdField w) (rtField w) (shamtField w))) ∧
    (funcField w = 4#6 → decode w = .ok (.sllv (rdField w) (rtField w) (rsField w))) ∧
    (funcField w = 2#6 → w.getLsbD 21 = false → decode w = .ok (.srl (rdField w) (rtField w) (shamtField w))) ∧
    (funcField w = 6#6 → w.getLsbD 6 = false → decode w = .ok (.srlv (rdField w) (rtField w) (rsField w)))) ∧
  ∀ (s : State) (rd rt rs : Reg) (shamt : BitIndex),
    (∃ t v, exec (.sll rd rt shamt) s = .next t ∧ WritesReg s t rd v ∧
      v.toNat = (s.reg rt).toNat * 2 ^ shamt.val % 2 ^ 32) ∧
    (∃ t v, exec (.sllv rd rt rs) s = .next t ∧ WritesReg s t rd v ∧
      v.toNat = (s.reg rt).toNat * 2 ^ ((s.reg rs).toNat % 32) % 2 ^ 32) ∧
    (∃ t v, exec (.srl rd rt shamt) s = .next t ∧ WritesReg s t rd v ∧
      v.toNat = (s.reg rt).toNat / 2 ^ shamt.val) ∧
    (∃ t v, exec (.srlv rd rt rs) s = .next t ∧ WritesReg s t rd v ∧
      v.toNat = (s.reg rt).toNat / 2 ^ ((s.reg rs).toNat % 32))

/-- R150, R151: SRA and SRAV write the pattern of `floor(s(x[rt]) / 2^n)`. -/
def Obligations.ArithmeticShifts : Prop :=
  (∀ w : Word, opField w = 0#6 →
    (funcField w = 3#6 → decode w = .ok (.sra (rdField w) (rtField w) (shamtField w))) ∧
    (funcField w = 7#6 → decode w = .ok (.srav (rdField w) (rtField w) (rsField w)))) ∧
  ∀ (s : State) (rd rt rs : Reg) (shamt : BitIndex),
    (∃ t v, exec (.sra rd rt shamt) s = .next t ∧ WritesReg s t rd v ∧
      v.toInt = (s.reg rt).toInt / 2 ^ shamt.val) ∧
    (∃ t v, exec (.srav rd rt rs) s = .next t ∧ WritesReg s t rd v ∧
      v.toInt = (s.reg rt).toInt / 2 ^ ((s.reg rs).toNat % 32))

/-- R153, R155: ROTR and ROTRV rotate `x[rt]` right: bit `k` of the result is bit `(k + n) mod 32` of the operand,
also for `n = 0`. -/
def Obligations.Rotates : Prop :=
  (∀ w : Word, opField w = 0#6 →
    (funcField w = 2#6 → w.getLsbD 21 = true → decode w = .ok (.rotr (rdField w) (rtField w) (shamtField w))) ∧
    (funcField w = 6#6 → w.getLsbD 6 = true → decode w = .ok (.rotrv (rdField w) (rtField w) (rsField w)))) ∧
  ∀ (s : State) (rd rt rs : Reg) (shamt : BitIndex),
    (∃ t v, exec (.rotr rd rt shamt) s = .next t ∧ WritesReg s t rd v ∧
      ∀ k < 32, v.getLsbD k = (s.reg rt).getLsbD ((k + shamt.val) % 32)) ∧
    (∃ t v, exec (.rotrv rd rt rs) s = .next t ∧ WritesReg s t rd v ∧
      ∀ k < 32, v.getLsbD k = (s.reg rt).getLsbD ((k + (s.reg rs).toNat % 32) % 32))

/-- R156 to R159: SLT and SLTU write 1 or 0 by a signed or unsigned comparison; SELEQZ and SELNEZ write `x[rs]`
or 0 by `x[rt] = 0`. -/
def Obligations.CompareAndSelect : Prop :=
  (∀ w : Word, opField w = 0#6 →
    (funcField w = 42#6 → decode w = .ok (.slt (rdField w) (rsField w) (rtField w))) ∧
    (funcField w = 43#6 → decode w = .ok (.sltu (rdField w) (rsField w) (rtField w))) ∧
    (funcField w = 53#6 → decode w = .ok (.seleqz (rdField w) (rsField w) (rtField w))) ∧
    (funcField w = 55#6 → decode w = .ok (.selnez (rdField w) (rsField w) (rtField w)))) ∧
  ∀ (s : State) (rd rs rt : Reg),
    (∃ t, exec (.slt rd rs rt) s = .next t ∧
      WritesReg s t rd (if (s.reg rs).toInt < (s.reg rt).toInt then 1#32 else 0#32)) ∧
    (∃ t, exec (.sltu rd rs rt) s = .next t ∧
      WritesReg s t rd (if (s.reg rs).toNat < (s.reg rt).toNat then 1#32 else 0#32)) ∧
    (∃ t, exec (.seleqz rd rs rt) s = .next t ∧
      WritesReg s t rd (if (s.reg rt).toNat = 0 then s.reg rs else 0#32)) ∧
    (∃ t, exec (.selnez rd rs rt) s = .next t ∧
      WritesReg s t rd (if (s.reg rt).toNat = 0 then 0#32 else s.reg rs))

/-- R160, R161: CLZ and CLO count the 0 or 1 bits from bit 31 downward: the top `n` bits are all 0 (all 1) and,
when `n` is less than 32, the next bit is not. -/
def Obligations.CountLeadingBits : Prop :=
  (∀ w : Word, opField w = 0#6 →
    (funcField w = 16#6 → decode w = .ok (.clz (rdField w) (rsField w))) ∧
    (funcField w = 17#6 → decode w = .ok (.clo (rdField w) (rsField w)))) ∧
  ∀ (s : State) (rd rs : Reg),
    (∃ t v, exec (.clz rd rs) s = .next t ∧ WritesReg s t rd v ∧ v.toNat ≤ 32 ∧
      (∀ k < 32, 32 - v.toNat ≤ k → (s.reg rs).getLsbD k = false) ∧
      (v.toNat < 32 → (s.reg rs).getLsbD (31 - v.toNat) = true)) ∧
    (∃ t v, exec (.clo rd rs) s = .next t ∧ WritesReg s t rd v ∧ v.toNat ≤ 32 ∧
      (∀ k < 32, 32 - v.toNat ≤ k → (s.reg rs).getLsbD k = true) ∧
      (v.toNat < 32 → (s.reg rs).getLsbD (31 - v.toNat) = false))

/-! ## SPECIAL: multiply, divide, register jumps, traps -/

/-- R181 to R184: the low or high word of the exact signed (MUL, MUH) or unsigned (MULU, MUHU) product. -/
def Obligations.MultiplyLowAndHigh : Prop :=
  (∀ w : Word, opField w = 0#6 →
    (funcField w = 24#6 → bfuncField w = 2#5 → decode w = .ok (.mul (rdField w) (rsField w) (rtField w))) ∧
    (funcField w = 24#6 → bfuncField w = 3#5 → decode w = .ok (.muh (rdField w) (rsField w) (rtField w))) ∧
    (funcField w = 25#6 → bfuncField w = 2#5 → decode w = .ok (.mulu (rdField w) (rsField w) (rtField w))) ∧
    (funcField w = 25#6 → bfuncField w = 3#5 → decode w = .ok (.muhu (rdField w) (rsField w) (rtField w)))) ∧
  ∀ (s : State) (rd rs rt : Reg),
    (∃ t v, exec (.mul rd rs rt) s = .next t ∧ WritesReg s t rd v ∧
      (v.toNat : Int) = (s.reg rs).toInt * (s.reg rt).toInt % 2 ^ 32) ∧
    (∃ t v, exec (.muh rd rs rt) s = .next t ∧ WritesReg s t rd v ∧
      v.toInt = (s.reg rs).toInt * (s.reg rt).toInt / 2 ^ 32) ∧
    (∃ t v, exec (.mulu rd rs rt) s = .next t ∧ WritesReg s t rd v ∧
      v.toNat = (s.reg rs).toNat * (s.reg rt).toNat % 2 ^ 32) ∧
    (∃ t v, exec (.muhu rd rs rt) s = .next t ∧ WritesReg s t rd v ∧
      v.toNat = (s.reg rs).toNat * (s.reg rt).toNat / 2 ^ 32)

/-- DIV and MOD fail with DivideByZero on a zero divisor and write nothing; else, but for the one division that
overflows, they write the quotient truncated toward zero and the remainder, which has the dividend's sign; in
that one case they write the two words of the parameter `DIV_OVF`, whatever it is
(spec/42_special_muldiv_jump_trap.md R185, R186, R189; truncation and the parameter are the spec's decision D9).
-/
def Obligations.SignedDivision : Prop :=
  (∀ w : Word, opField w = 0#6 → funcField w = 26#6 →
    (bfuncField w = 2#5 → decode w = .ok (.div (rdField w) (rsField w) (rtField w))) ∧
    (bfuncField w = 3#5 → decode w = .ok (.mod (rdField w) (rsField w) (rtField w)))) ∧
  ∀ (s : State) (rd rs rt : Reg),
    (s.reg rt = 0#32 →
      (∃ t, exec (.div rd rs rt) s = .next t ∧ FailsWith s t .divideByZero) ∧
      (∃ t, exec (.mod rd rs rt) s = .next t ∧ FailsWith s t .divideByZero)) ∧
    (s.reg rt ≠ 0#32 → ¬((s.reg rs).toInt = -2 ^ 31 ∧ (s.reg rt).toInt = -1) →
      ∃ t u q r, exec (.div rd rs rt) s = .next t ∧ WritesReg s t rd q ∧
        exec (.mod rd rs rt) s = .next u ∧ WritesReg s u rd r ∧
        (s.reg rs).toInt = q.toInt * (s.reg rt).toInt + r.toInt ∧
        r.toInt.natAbs < (s.reg rt).toInt.natAbs ∧
        (0 ≤ (s.reg rs).toInt → 0 ≤ r.toInt) ∧ ((s.reg rs).toInt ≤ 0 → r.toInt ≤ 0)) ∧
    ((s.reg rs).toInt = -2 ^ 31 → (s.reg rt).toInt = -1 →
      (∃ t, exec (.div rd rs rt) s = .next t ∧ WritesReg s t rd s.config.divOverflow.quotient) ∧
      (∃ t, exec (.mod rd rs rt) s = .next t ∧ WritesReg s t rd s.config.divOverflow.remainder))

/-- R187, R188: DIVU and MODU fail with DivideByZero on a zero divisor and write nothing; else they write the
unsigned quotient and remainder. -/
def Obligations.UnsignedDivision : Prop :=
  (∀ w : Word, opField w = 0#6 → funcField w = 27#6 →
    (bfuncField w = 2#5 → decode w = .ok (.divu (rdField w) (rsField w) (rtField w))) ∧
    (bfuncField w = 3#5 → decode w = .ok (.modu (rdField w) (rsField w) (rtField w)))) ∧
  ∀ (s : State) (rd rs rt : Reg),
    (s.reg rt = 0#32 →
      (∃ t, exec (.divu rd rs rt) s = .next t ∧ FailsWith s t .divideByZero) ∧
      (∃ t, exec (.modu rd rs rt) s = .next t ∧ FailsWith s t .divideByZero)) ∧
    (s.reg rt ≠ 0#32 →
      (∃ t v, exec (.divu rd rs rt) s = .next t ∧ WritesReg s t rd v ∧
        v.toNat = (s.reg rs).toNat / (s.reg rt).toNat) ∧
      (∃ t v, exec (.modu rd rs rt) s = .next t ∧ WritesReg s t rd v ∧
        v.toNat = (s.reg rs).toNat % (s.reg rt).toNat))

/-- JR arms the slot with `x[rs]`; JALR does the same and writes `cpc` to register 31, whatever its `rd`
field; the target is `x[rs]` as before the link, also when `rs` is 31 (spec/42_special_muldiv_jump_trap.md R200,
R201; the function code of JR is the spec's decision D12, the order of read and link D10, log entry 19). -/
def Obligations.RegisterJumps : Prop :=
  (∀ w : Word, opField w = 0#6 →
    (funcField w = 8#6 → decode w = .ok (.jr (rsField w))) ∧
    (funcField w = 9#6 → decode w = .ok (.jalr (rsField w)))) ∧
  ∀ (s : State) (rs : Reg),
    (∃ t, exec (.jr rs) s = .next t ∧ Transfers s t s.updatedPc (some (s.reg rs))) ∧
    (∃ t, exec (.jalr rs) s = .next t ∧ TransfersLinking s t s.updatedPc (some (s.reg rs)))

/-- R203 to R208: each trap instruction, when its condition holds, records the cause `trap` and its own word and
answers false, `pc` already past it; when it does not hold it is a no-op that answers true. The recorded word is
the fetched word, bits 15..6 included (R202). -/
def Obligations.ConditionalTraps : Prop :=
  (∀ w : Word, opField w = 0#6 →
    (funcField w = 52#6 → decode w = .ok (.teq (rsField w) (rtField w) (codeField w)) ∧
      encode (.teq (rsField w) (rtField w) (codeField w)) = w) ∧
    (funcField w = 54#6 → decode w = .ok (.tne (rsField w) (rtField w) (codeField w)) ∧
      encode (.tne (rsField w) (rtField w) (codeField w)) = w) ∧
    (funcField w = 48#6 → decode w = .ok (.tge (rsField w) (rtField w) (codeField w)) ∧
      encode (.tge (rsField w) (rtField w) (codeField w)) = w) ∧
    (funcField w = 49#6 → decode w = .ok (.tgeu (rsField w) (rtField w) (codeField w)) ∧
      encode (.tgeu (rsField w) (rtField w) (codeField w)) = w) ∧
    (funcField w = 50#6 → decode w = .ok (.tlt (rsField w) (rtField w) (codeField w)) ∧
      encode (.tlt (rsField w) (rtField w) (codeField w)) = w) ∧
    (funcField w = 51#6 → decode w = .ok (.tltu (rsField w) (rtField w) (codeField w)) ∧
      encode (.tltu (rsField w) (rtField w) (codeField w)) = w)) ∧
  ∀ (s : State) (rs rt : Reg) (code : BitVec 10),
    (∃ t, exec (.teq rs rt code) s = .next t ∧
      ((s.reg rs).toNat = (s.reg rt).toNat → Traps s t (encode (.teq rs rt code))) ∧
      ((s.reg rs).toNat ≠ (s.reg rt).toNat → Transfers s t s.updatedPc none)) ∧
    (∃ t, exec (.tne rs rt code) s = .next t ∧
      ((s.reg rs).toNat ≠ (s.reg rt).toNat → Traps s t (encode (.tne rs rt code))) ∧
      ((s.reg rs).toNat = (s.reg rt).toNat → Transfers s t s.updatedPc none)) ∧
    (∃ t, exec (.tge rs rt code) s = .next t ∧
      ((s.reg rs).toInt ≥ (s.reg rt).toInt → Traps s t (encode (.tge rs rt code))) ∧
      ((s.reg rs).toInt < (s.reg rt).toInt → Transfers s t s.updatedPc none)) ∧
    (∃ t, exec (.tgeu rs rt code) s = .next t ∧
      ((s.reg rs).toNat ≥ (s.reg rt).toNat → Traps s t (encode (.tgeu rs rt code))) ∧
      ((s.reg rs).toNat < (s.reg rt).toNat → Transfers s t s.updatedPc none)) ∧
    (∃ t, exec (.tlt rs rt code) s = .next t ∧
      ((s.reg rs).toInt < (s.reg rt).toInt → Traps s t (encode (.tlt rs rt code))) ∧
      ((s.reg rs).toInt ≥ (s.reg rt).toInt → Transfers s t s.updatedPc none)) ∧
    (∃ t, exec (.tltu rs rt code) s = .next t ∧
      ((s.reg rs).toNat < (s.reg rt).toNat → Traps s t (encode (.tltu rs rt code))) ∧
      ((s.reg rs).toNat ≥ (s.reg rt).toNat → Transfers s t s.updatedPc none))

/-! ## Immediates and legacy branches -/

/-- R213, R217 to R219: ADDIU adds the sign-extended immediate; ANDI, ORI and XORI take the zero-extended
immediate. -/
def Obligations.ImmediateArithmeticAndLogic : Prop :=
  (∀ w : Word,
    (opField w = 9#6 → decode w = .ok (.addiu (rtField w) (rsField w) (immField w))) ∧
    (opField w = 12#6 → decode w = .ok (.andi (rtField w) (rsField w) (immField w))) ∧
    (opField w = 13#6 → decode w = .ok (.ori (rtField w) (rsField w) (immField w))) ∧
    (opField w = 14#6 → decode w = .ok (.xori (rtField w) (rsField w) (immField w)))) ∧
  ∀ (s : State) (rt rs : Reg) (imm : BitVec 16),
    (∃ t, exec (.addiu rt rs imm) s = .next t ∧ WritesReg s t rt (relTarget (s.reg rs) imm.toInt)) ∧
    (∃ t v, exec (.andi rt rs imm) s = .next t ∧ WritesReg s t rt v ∧
      ∀ k < 32, v.getLsbD k = ((s.reg rs).getLsbD k && imm.getLsbD k)) ∧
    (∃ t v, exec (.ori rt rs imm) s = .next t ∧ WritesReg s t rt v ∧
      ∀ k < 32, v.getLsbD k = ((s.reg rs).getLsbD k || imm.getLsbD k)) ∧
    (∃ t v, exec (.xori rt rs imm) s = .next t ∧ WritesReg s t rt v ∧
      ∀ k < 32, v.getLsbD k = ((s.reg rs).getLsbD k ^^ imm.getLsbD k))

/-- AUI adds the immediate in the upper half of the word (spec/43_itype_alu_branch.md R214). That the immediate
is the pattern `imm ## 0x0000` is the spec's decision D19 (spec/90_conflicts.md C1), not the document's words.
-/
def Obligations.AddUpperImmediate : Prop :=
  (∀ w : Word, opField w = 15#6 → decode w = .ok (.aui (rtField w) (rsField w) (immField w))) ∧
  ∀ (s : State) (rt rs : Reg) (imm : BitVec 16),
    ∃ t, exec (.aui rt rs imm) s = .next t ∧ WritesReg s t rt (relTarget (s.reg rs) (imm.toNat * 2 ^ 16))

/-- R215, R216: SLTI and SLTIU compare with the sign-extended immediate, signed and unsigned. -/
def Obligations.ImmediateCompares : Prop :=
  (∀ w : Word,
    (opField w = 10#6 → decode w = .ok (.slti (rtField w) (rsField w) (immField w))) ∧
    (opField w = 11#6 → decode w = .ok (.sltiu (rtField w) (rsField w) (immField w)))) ∧
  ∀ (s : State) (rt rs : Reg) (imm : BitVec 16),
    (∃ t, exec (.slti rt rs imm) s = .next t ∧
      WritesReg s t rt (if (s.reg rs).toInt < imm.toInt then 1#32 else 0#32)) ∧
    (∃ t, exec (.sltiu rt rs imm) s = .next t ∧
      WritesReg s t rt (if ((s.reg rs).toNat : Int) < imm.toInt % 2 ^ 32 then 1#32 else 0#32))

/-- R211, R212: BEQ and BNE arm the slot with `cpc + 4 * offset` when their condition holds, and do nothing when
it does not. -/
def Obligations.EqualityBranches : Prop :=
  (∀ w : Word,
    (opField w = 4#6 → decode w = .ok (.beq (rsField w) (rtField w) (immField w))) ∧
    (opField w = 5#6 → decode w = .ok (.bne (rsField w) (rtField w) (immField w)))) ∧
  ∀ (s : State) (rs rt : Reg) (imm : BitVec 16),
    (∃ t, exec (.beq rs rt imm) s = .next t ∧ Transfers s t s.updatedPc
      (if (s.reg rs).toNat = (s.reg rt).toNat then some (relTarget s.updatedPc (4 * imm.toInt)) else none)) ∧
    (∃ t, exec (.bne rs rt imm) s = .next t ∧ Transfers s t s.updatedPc
      (if (s.reg rs).toNat = (s.reg rt).toNat then none else some (relTarget s.updatedPc (4 * imm.toInt))))

/-- R232, R237, R301, R302: the legacy branches on the sign of `x[rs]`. -/
def Obligations.SignBranches : Prop :=
  (∀ w : Word,
    (opField w = 6#6 → rtField w = 0 → decode w = .ok (.blez (rsField w) (immField w))) ∧
    (opField w = 7#6 → rtField w = 0 → decode w = .ok (.bgtz (rsField w) (immField w))) ∧
    (opField w = 1#6 → subopField w = 0#5 → decode w = .ok (.bltz (rsField w) (immField w))) ∧
    (opField w = 1#6 → subopField w = 1#5 → decode w = .ok (.bgez (rsField w) (immField w)))) ∧
  ∀ (s : State) (rs : Reg) (imm : BitVec 16),
    (∃ t, exec (.blez rs imm) s = .next t ∧ Transfers s t s.updatedPc
      (if (s.reg rs).toInt ≤ 0 then some (relTarget s.updatedPc (4 * imm.toInt)) else none)) ∧
    (∃ t, exec (.bgtz rs imm) s = .next t ∧ Transfers s t s.updatedPc
      (if (s.reg rs).toInt > 0 then some (relTarget s.updatedPc (4 * imm.toInt)) else none)) ∧
    (∃ t, exec (.bltz rs imm) s = .next t ∧ Transfers s t s.updatedPc
      (if (s.reg rs).toInt < 0 then some (relTarget s.updatedPc (4 * imm.toInt)) else none)) ∧
    (∃ t, exec (.bgez rs imm) s = .next t ∧ Transfers s t s.updatedPc
      (if (s.reg rs).toInt ≥ 0 then some (relTarget s.updatedPc (4 * imm.toInt)) else none))

/-! ## POP families: compact branches -/

/-- The linking compact branches write `cpc` to register 31 whether or not they are
taken, test `x[rt]` as it was before the link, and when taken set `pc` at once (spec/44_pop_compact.md R233, R234,
R238, R239, R242, R247; the order of read and link is the spec's decision D10, log entry 19). -/
def Obligations.LinkingCompactBranches : Prop :=
  (∀ w : Word, rtField w ≠ 0 →
    (opField w = 6#6 → rsField w = 0 → decode w = .ok (.blezalc (rtField w) (immField w))) ∧
    (opField w = 6#6 → rsField w = rtField w → decode w = .ok (.bgezalc (rtField w) (immField w))) ∧
    (opField w = 7#6 → rsField w = 0 → decode w = .ok (.bgtzalc (rtField w) (immField w))) ∧
    (opField w = 7#6 → rsField w = rtField w → decode w = .ok (.bltzalc (rtField w) (immField w))) ∧
    (opField w = 8#6 → rsField w = 0 → decode w = .ok (.beqzalc (rtField w) (immField w))) ∧
    (opField w = 24#6 → rsField w = 0 → decode w = .ok (.bnezalc (rtField w) (immField w)))) ∧
  ∀ (s : State) (rt : Reg) (imm : BitVec 16),
    (∃ t, exec (.blezalc rt imm) s = .next t ∧ TransfersLinking s t
      (if (s.reg rt).toInt ≤ 0 then relTarget s.updatedPc (4 * imm.toInt) else s.updatedPc) none) ∧
    (∃ t, exec (.bgezalc rt imm) s = .next t ∧ TransfersLinking s t
      (if (s.reg rt).toInt ≥ 0 then relTarget s.updatedPc (4 * imm.toInt) else s.updatedPc) none) ∧
    (∃ t, exec (.bgtzalc rt imm) s = .next t ∧ TransfersLinking s t
      (if (s.reg rt).toInt > 0 then relTarget s.updatedPc (4 * imm.toInt) else s.updatedPc) none) ∧
    (∃ t, exec (.bltzalc rt imm) s = .next t ∧ TransfersLinking s t
      (if (s.reg rt).toInt < 0 then relTarget s.updatedPc (4 * imm.toInt) else s.updatedPc) none) ∧
    (∃ t, exec (.beqzalc rt imm) s = .next t ∧ TransfersLinking s t
      (if (s.reg rt).toInt = 0 then relTarget s.updatedPc (4 * imm.toInt) else s.updatedPc) none) ∧
    (∃ t, exec (.bnezalc rt imm) s = .next t ∧ TransfersLinking s t
      (if (s.reg rt).toInt = 0 then s.updatedPc else relTarget s.updatedPc (4 * imm.toInt)) none)

/-- R235, R240, R243, R248, R253, R257: the two-register compact branches compare register contents and write no
register. -/
def Obligations.TwoRegisterCompactBranches : Prop :=
  (∀ w : Word, rsField w ≠ 0 → rtField w ≠ 0 →
    (rsField w ≠ rtField w →
      (opField w = 6#6 → decode w = .ok (.bgeuc (rsField w) (rtField w) (immField w))) ∧
      (opField w = 7#6 → decode w = .ok (.bltuc (rsField w) (rtField w) (immField w))) ∧
      (opField w = 22#6 → decode w = .ok (.bgec (rsField w) (rtField w) (immField w))) ∧
      (opField w = 23#6 → decode w = .ok (.bltc (rsField w) (rtField w) (immField w)))) ∧
    (rsField w < rtField w →
      (opField w = 8#6 → decode w = .ok (.beqc (rsField w) (rtField w) (immField w))) ∧
      (opField w = 24#6 → decode w = .ok (.bnec (rsField w) (rtField w) (immField w))))) ∧
  ∀ (s : State) (rs rt : Reg) (imm : BitVec 16),
    (∃ t, exec (.bgeuc rs rt imm) s = .next t ∧ Transfers s t (if (s.reg rs).toNat ≥ (s.reg rt).toNat
      then relTarget s.updatedPc (4 * imm.toInt) else s.updatedPc) none) ∧
    (∃ t, exec (.bltuc rs rt imm) s = .next t ∧ Transfers s t (if (s.reg rs).toNat < (s.reg rt).toNat
      then relTarget s.updatedPc (4 * imm.toInt) else s.updatedPc) none) ∧
    (∃ t, exec (.beqc rs rt imm) s = .next t ∧ Transfers s t (if (s.reg rs).toNat = (s.reg rt).toNat
      then relTarget s.updatedPc (4 * imm.toInt) else s.updatedPc) none) ∧
    (∃ t, exec (.bnec rs rt imm) s = .next t ∧ Transfers s t (if (s.reg rs).toNat = (s.reg rt).toNat
      then s.updatedPc else relTarget s.updatedPc (4 * imm.toInt)) none) ∧
    (∃ t, exec (.bgec rs rt imm) s = .next t ∧ Transfers s t (if (s.reg rs).toInt ≥ (s.reg rt).toInt
      then relTarget s.updatedPc (4 * imm.toInt) else s.updatedPc) none) ∧
    (∃ t, exec (.bltc rs rt imm) s = .next t ∧ Transfers s t (if (s.reg rs).toInt < (s.reg rt).toInt
      then relTarget s.updatedPc (4 * imm.toInt) else s.updatedPc) none)

/-- R251, R252, R255, R256, R259: the one-register compact branches of POP26 and POP27 test the sign of `x[rt]`,
and their words with `rt = 0` are no-ops that succeed. -/
def Obligations.OneRegisterCompactBranchesAndNoOps : Prop :=
  (∀ w : Word,
    (opField w = 22#6 → rtField w ≠ 0 → rsField w = 0 → decode w = .ok (.blezc (rtField w) (immField w))) ∧
    (opField w = 22#6 → rtField w ≠ 0 → rsField w = rtField w →
      decode w = .ok (.bgezc (rtField w) (immField w))) ∧
    (opField w = 23#6 → rtField w ≠ 0 → rsField w = 0 → decode w = .ok (.bgtzc (rtField w) (immField w))) ∧
    (opField w = 23#6 → rtField w ≠ 0 → rsField w = rtField w →
      decode w = .ok (.bltzc (rtField w) (immField w))) ∧
    (opField w = 22#6 → rtField w = 0 → decode w = .ok .pop26Nop) ∧
    (opField w = 23#6 → rtField w = 0 → decode w = .ok .pop27Nop)) ∧
  ∀ (s : State) (rt : Reg) (imm : BitVec 16),
    (∃ t, exec (.blezc rt imm) s = .next t ∧ Transfers s t
      (if (s.reg rt).toInt ≤ 0 then relTarget s.updatedPc (4 * imm.toInt) else s.updatedPc) none) ∧
    (∃ t, exec (.bgezc rt imm) s = .next t ∧ Transfers s t
      (if (s.reg rt).toInt ≥ 0 then relTarget s.updatedPc (4 * imm.toInt) else s.updatedPc) none) ∧
    (∃ t, exec (.bgtzc rt imm) s = .next t ∧ Transfers s t
      (if (s.reg rt).toInt > 0 then relTarget s.updatedPc (4 * imm.toInt) else s.updatedPc) none) ∧
    (∃ t, exec (.bltzc rt imm) s = .next t ∧ Transfers s t
      (if (s.reg rt).toInt < 0 then relTarget s.updatedPc (4 * imm.toInt) else s.updatedPc) none) ∧
    (∃ t, exec .pop26Nop s = .next t ∧ Transfers s t s.updatedPc none) ∧
    (∃ t, exec .pop27Nop s = .next t ∧ Transfers s t s.updatedPc none)

/-- R244, R249: BOVC is taken exactly when `s(x[rs]) + s(x[rt])`, computed exactly, lies outside -2^31 .. 2^31-1,
and BNVC exactly when it does not; and the three forms of the overflow test agree (R245). -/
def Obligations.OverflowBranches : Prop :=
  (∀ w : Word, rtField w ≤ rsField w →
    (opField w = 8#6 → decode w = .ok (.bovc (rsField w) (rtField w) (immField w))) ∧
    (opField w = 24#6 → decode w = .ok (.bnvc (rsField w) (rtField w) (immField w)))) ∧
  (∀ a b : Word,
    (addOverflows a b = true ↔ a.toInt + b.toInt < -2 ^ 31 ∨ 2 ^ 31 ≤ a.toInt + b.toInt) ∧
    (addOverflows a b = true ↔ a.msb = b.msb ∧ (a + b).msb ≠ a.msb)) ∧
  ∀ (s : State) (rs rt : Reg) (imm : BitVec 16),
    (∃ t, exec (.bovc rs rt imm) s = .next t ∧ Transfers s t
      (if (s.reg rs).toInt + (s.reg rt).toInt < -2 ^ 31 ∨ 2 ^ 31 ≤ (s.reg rs).toInt + (s.reg rt).toInt
        then relTarget s.updatedPc (4 * imm.toInt) else s.updatedPc) none) ∧
    (∃ t, exec (.bnvc rs rt imm) s = .next t ∧ Transfers s t
      (if (s.reg rs).toInt + (s.reg rt).toInt < -2 ^ 31 ∨ 2 ^ 31 ≤ (s.reg rs).toInt + (s.reg rt).toInt
        then s.updatedPc else relTarget s.updatedPc (4 * imm.toInt)) none)

/-- JIC and JIALC jump to `x[rt]` plus a byte offset, JIALC also linking, the target computed
before the link; BEQZC and BNEZC test `x[rs]` and take a 21-bit word offset (spec/44_pop_compact.md R261, R262,
R264, R265; the order of read and link is the spec's decision D10, log entry 19). -/
def Obligations.CompactJumpsAndZeroBranches : Prop :=
  (∀ w : Word,
    (opField w = 54#6 → rsField w = 0 → decode w = .ok (.jic (rtField w) (immField w))) ∧
    (opField w = 62#6 → rsField w = 0 → decode w = .ok (.jialc (rtField w) (immField w))) ∧
    (opField w = 54#6 → rsField w ≠ 0 → decode w = .ok (.beqzc (rsField w) (imm21Field w))) ∧
    (opField w = 62#6 → rsField w ≠ 0 → decode w = .ok (.bnezc (rsField w) (imm21Field w)))) ∧
  ∀ (s : State) (r : Reg) (imm : BitVec 16) (imm21 : BitVec 21),
    (∃ t, exec (.jic r imm) s = .next t ∧ Transfers s t (relTarget (s.reg r) imm.toInt) none) ∧
    (∃ t, exec (.jialc r imm) s = .next t ∧ TransfersLinking s t (relTarget (s.reg r) imm.toInt) none) ∧
    (∃ t, exec (.beqzc r imm21) s = .next t ∧ Transfers s t
      (if (s.reg r).toNat = 0 then relTarget s.updatedPc (4 * imm21.toInt) else s.updatedPc) none) ∧
    (∃ t, exec (.bnezc r imm21) s = .next t ∧ Transfers s t
      (if (s.reg r).toNat = 0 then s.updatedPc else relTarget s.updatedPc (4 * imm21.toInt)) none)

/-! ## J-type -/

/-- R291 to R294: J and JAL arm the slot with `cpc[31:28] ## address ## 0b00`, JAL linking; BC and BALC set `pc`
to `cpc + 4 * offset` at once, BALC linking. -/
def Obligations.JumpsAndLongBranches : Prop :=
  (∀ w : Word,
    (opField w = 2#6 → decode w = .ok (.j (addressField w))) ∧
    (opField w = 3#6 → decode w = .ok (.jal (addressField w))) ∧
    (opField w = 50#6 → decode w = .ok (.bc (addressField w))) ∧
    (opField w = 58#6 → decode w = .ok (.balc (addressField w)))) ∧
  ∀ (s : State) (address : BitVec 26),
    (∃ t, exec (.j address) s = .next t ∧ Transfers s t s.updatedPc
      (some (BitVec.ofNat 32 (s.updatedPc.toNat / 2 ^ 28 * 2 ^ 28 + address.toNat * 4)))) ∧
    (∃ t, exec (.jal address) s = .next t ∧ TransfersLinking s t s.updatedPc
      (some (BitVec.ofNat 32 (s.updatedPc.toNat / 2 ^ 28 * 2 ^ 28 + address.toNat * 4)))) ∧
    (∃ t, exec (.bc address) s = .next t ∧
      Transfers s t (relTarget s.updatedPc (4 * address.toInt)) none) ∧
    (∃ t, exec (.balc address) s = .next t ∧
      TransfersLinking s t (relTarget s.updatedPc (4 * address.toInt)) none)

/-! ## Loads and stores -/

/-- R270: the effective address is the base plus the signed byte offset, modulo 2^32, with no scaling. -/
def Obligations.EffectiveAddressWraps : Prop :=
  ∀ (base : Word) (imm : BitVec 16),
    ((effectiveAddress base imm).toNat : Int) = ((base.toNat : Int) + imm.toInt) % 2 ^ 32

/-- R272, R275: LB and LBU write the byte at the effective address, sign- or zero-extended; an unmapped address
fails with MemLoadError and writes nothing. -/
def Obligations.ByteLoads : Prop :=
  (∀ w : Word,
    (opField w = 32#6 → decode w = .ok (.lb (rtField w) (immField w) (rsField w))) ∧
    (opField w = 36#6 → decode w = .ok (.lbu (rtField w) (immField w) (rsField w)))) ∧
  ∀ (s : State) (rt rs : Reg) (imm : BitVec 16),
    (MappedAt s (effectiveAddress (s.reg rs) imm) 1 →
      (∃ t v, exec (.lb rt imm rs) s = .next t ∧ WritesReg s t rt v ∧
        v.toInt = (s.mem.readByte (effectiveAddress (s.reg rs) imm).toNat).toInt) ∧
      (∃ t v, exec (.lbu rt imm rs) s = .next t ∧ WritesReg s t rt v ∧
        v.toNat = (s.mem.readByte (effectiveAddress (s.reg rs) imm).toNat).toNat)) ∧
    (¬MappedAt s (effectiveAddress (s.reg rs) imm) 1 →
      (∃ t, exec (.lb rt imm rs) s = .next t ∧ FailsWith s t .memLoadError) ∧
      (∃ t, exec (.lbu rt imm rs) s = .next t ∧ FailsWith s t .memLoadError))

/-- LH, LHU and LW write the half-word or word at the effective address in the memory's byte order,
LH sign-extended; a misaligned or unmapped address fails with MemLoadError and writes nothing
(spec/45_loadstore.md R273, R274, R276; natural alignment is the spec's decision D3, the byte order its D2). -/
def Obligations.HalfAndWordLoads : Prop :=
  (∀ w : Word,
    (opField w = 33#6 → decode w = .ok (.lh (rtField w) (immField w) (rsField w))) ∧
    (opField w = 37#6 → decode w = .ok (.lhu (rtField w) (immField w) (rsField w))) ∧
    (opField w = 35#6 → decode w = .ok (.lw (rtField w) (immField w) (rsField w)))) ∧
  ∀ (s : State) (rt rs : Reg) (imm : BitVec 16) (a : Word), a = effectiveAddress (s.reg rs) imm →
    (a.toNat % 2 = 0 → MappedAt s a 2 → ∃ t u v m,
      ReadsAs s a.toNat 2 m ∧ exec (.lhu rt imm rs) s = .next u ∧ WritesReg s u rt m ∧
      exec (.lh rt imm rs) s = .next t ∧ WritesReg s t rt v ∧ v.toInt = (m.extractLsb' 0 16).toInt) ∧
    (a.toNat % 2 ≠ 0 ∨ ¬MappedAt s a 2 →
      (∃ t, exec (.lh rt imm rs) s = .next t ∧ FailsWith s t .memLoadError) ∧
      (∃ t, exec (.lhu rt imm rs) s = .next t ∧ FailsWith s t .memLoadError)) ∧
    (a.toNat % 4 = 0 → MappedAt s a 4 → ∃ t m,
      ReadsAs s a.toNat 4 m ∧ exec (.lw rt imm rs) s = .next t ∧ WritesReg s t rt m) ∧
    (a.toNat % 4 ≠ 0 ∨ ¬MappedAt s a 4 →
      ∃ t, exec (.lw rt imm rs) s = .next t ∧ FailsWith s t .memLoadError)

/-- SB, SH and SW store the low 8, 16 or 32 bits of `x[rt]` at the effective address and change no other byte
and no register; a misaligned or unmapped address fails with MemStoreError and stores nothing. The premise
`s.mem.wf` is the canonical form, which every step keeps (spec/45_loadstore.md R277 to R279; natural alignment
is the spec's decision D3, the byte order its D2, log entries 1 and 9). -/
def Obligations.Stores : Prop :=
  (∀ w : Word,
    (opField w = 40#6 → decode w = .ok (.sb (rtField w) (immField w) (rsField w))) ∧
    (opField w = 41#6 → decode w = .ok (.sh (rtField w) (immField w) (rsField w))) ∧
    (opField w = 43#6 → decode w = .ok (.sw (rtField w) (immField w) (rsField w)))) ∧
  ∀ (s : State) (rt rs : Reg) (imm : BitVec 16) (a : Word), a = effectiveAddress (s.reg rs) imm → s.mem.wf →
    (MappedAt s a 1 → ∃ t, exec (.sb rt imm rs) s = .next t ∧ StoresAt s t a.toNat 1 (s.reg rt)) ∧
    (¬MappedAt s a 1 → ∃ t, exec (.sb rt imm rs) s = .next t ∧ FailsWith s t .memStoreError) ∧
    (a.toNat % 2 = 0 → MappedAt s a 2 →
      ∃ t, exec (.sh rt imm rs) s = .next t ∧ StoresAt s t a.toNat 2 (s.reg rt)) ∧
    (a.toNat % 2 ≠ 0 ∨ ¬MappedAt s a 2 →
      ∃ t, exec (.sh rt imm rs) s = .next t ∧ FailsWith s t .memStoreError) ∧
    (a.toNat % 4 = 0 → MappedAt s a 4 →
      ∃ t, exec (.sw rt imm rs) s = .next t ∧ StoresAt s t a.toNat 4 (s.reg rt)) ∧
    (a.toNat % 4 ≠ 0 ∨ ¬MappedAt s a 4 →
      ∃ t, exec (.sw rt imm rs) s = .next t ∧ FailsWith s t .memStoreError)

/-! ## SPECIAL3 -/

/-- R311, R312, R314, R315: BITSWAP reverses the bits of each byte in place, WSBH swaps the bytes of each
half-word, SEB and SEH sign-extend the low byte and the low half-word of `x[rt]`. -/
def Obligations.ByteShufflesAndSignExtensions : Prop :=
  (∀ w : Word, opField w = 31#6 → funcField w = 32#6 →
    (bfuncField w = 0#5 → decode w = .ok (.bitswap (rdField w) (rtField w))) ∧
    (bfuncField w = 2#5 → decode w = .ok (.wsbh (rdField w) (rtField w))) ∧
    (bfuncField w = 16#5 → decode w = .ok (.seb (rdField w) (rtField w))) ∧
    (bfuncField w = 24#5 → decode w = .ok (.seh (rdField w) (rtField w)))) ∧
  ∀ (s : State) (rd rt : Reg),
    (∃ t v, exec (.bitswap rd rt) s = .next t ∧ WritesReg s t rd v ∧
      ∀ k < 4, ∀ j < 8, v.getLsbD (8 * k + j) = (s.reg rt).getLsbD (8 * k + 7 - j)) ∧
    (∃ t v, exec (.wsbh rd rt) s = .next t ∧ WritesReg s t rd v ∧
      ∀ h < 2, ∀ j < 8, v.getLsbD (16 * h + j) = (s.reg rt).getLsbD (16 * h + 8 + j) ∧
        v.getLsbD (16 * h + 8 + j) = (s.reg rt).getLsbD (16 * h + j)) ∧
    (∃ t v, exec (.seb rd rt) s = .next t ∧ WritesReg s t rd v ∧
      v.toInt = ((s.reg rt).extractLsb' 0 8).toInt) ∧
    (∃ t v, exec (.seh rd rt) s = .next t ∧ WritesReg s t rd v ∧
      v.toInt = ((s.reg rt).extractLsb' 0 16).toInt)

/-- R313: ALIGN writes the low `4 - bp` bytes of `x[rt]` followed by the high `bp` bytes of `x[rs]`; with `bp =
0` that is `x[rt]`. Byte `k` of the result, from the least significant, is byte `4 - bp + k` of `x[rs]` for `k <
bp` and byte `k - bp` of `x[rt]` from there on. -/
def Obligations.AlignConcatenatesBytes : Prop :=
  (∀ w : Word, opField w = 31#6 → funcField w = 32#6 →
    bfuncField w = 8#5 ∨ bfuncField w = 9#5 ∨ bfuncField w = 10#5 ∨ bfuncField w = 11#5 →
    decode w = .ok (.align (rdField w) (rsField w) (rtField w) (bpField w)) ∧
      8 + (bpField w).val = (bfuncField w).toNat) ∧
  ∀ (s : State) (rd rs rt : Reg) (bp : Fin 4),
    ∃ t v, exec (.align rd rs rt bp) s = .next t ∧ WritesReg s t rd v ∧
      ∀ k < 4, ∀ j < 8, v.getLsbD (8 * k + j) =
        if k < bp.val then (s.reg rs).getLsbD (8 * (4 - bp.val + k) + j)
        else (s.reg rt).getLsbD (8 * (k - bp.val) + j)

/-- R318: EXT writes bits `lsb + msbd .. lsb` of `x[rs]`, zero-extended, and fails with BitfieldRange exactly when
`lsb + msbd > 31`, writing nothing. -/
def Obligations.ExtractBitField : Prop :=
  (∀ w : Word, opField w = 31#6 → funcField w = 0#6 →
    decode w = .ok (.ext (rtField w) (rsField w) (shamtField w) (msbField w))) ∧
  ∀ (s : State) (rt rs : Reg) (lsb msbd : BitIndex),
    (lsb.val + msbd.val ≤ 31 → ∃ t v, exec (.ext rt rs lsb msbd) s = .next t ∧ WritesReg s t rt v ∧
      ∀ k < 32, v.getLsbD k = (decide (k ≤ msbd.val) && (s.reg rs).getLsbD (lsb.val + k))) ∧
    (31 < lsb.val + msbd.val → ∃ t, exec (.ext rt rs lsb msbd) s = .next t ∧ FailsWith s t .bitfieldRange)

/-- INS replaces bits `msb .. lsb` of `x[rt]` by the low bits of `x[rs]` and keeps the others, and fails with
BitfieldRange exactly when `msb < lsb`, writing nothing (spec/48_special3.md R317, R319; the rejection of `msb <
lsb` is the spec's decision D7). -/
def Obligations.InsertBitField : Prop :=
  (∀ w : Word, opField w = 31#6 → funcField w = 4#6 →
    decode w = .ok (.ins (rtField w) (rsField w) (shamtField w) (msbField w))) ∧
  ∀ (s : State) (rt rs : Reg) (lsb msb : BitIndex),
    (lsb.val ≤ msb.val → ∃ t v, exec (.ins rt rs lsb msb) s = .next t ∧ WritesReg s t rt v ∧
      ∀ k < 32, v.getLsbD k =
        if lsb.val ≤ k ∧ k ≤ msb.val then (s.reg rs).getLsbD (k - lsb.val) else (s.reg rt).getLsbD k) ∧
    (msb.val < lsb.val → ∃ t, exec (.ins rt rs lsb msb) s = .next t ∧ FailsWith s t .bitfieldRange)

/-! ## PC-relative and floating point -/

/-- ADDIUPC, AUIPC and ALUIPC add to `iaddr`, the address the instruction was fetched from,
also in a delay slot, and write the register their `rs` field names (spec/49_pcrel_fpu.md R332, R334, R335). That
the base is `iaddr` is the spec's decision D6 (R330; spec/30_encoding.md R97; spec/90_conflicts.md C2; log entry
10). -/
def Obligations.PcRelativeResults : Prop :=
  (∀ w : Word, opField w = 59#6 →
    (pfunc2Field w = 0#2 → decode w = .ok (.addiupc (rsField w) (imm19Field w))) ∧
    (subopField w = 30#5 → decode w = .ok (.auipc (rsField w) (immField w))) ∧
    (subopField w = 31#5 → decode w = .ok (.aluipc (rsField w) (immField w)))) ∧
  ∀ (s : State) (rs : Reg) (imm19 : BitVec 19) (imm : BitVec 16),
    (∃ t, exec (.addiupc rs imm19) s = .next t ∧ WritesReg s t rs (relTarget s.pc (4 * imm19.toInt))) ∧
    (∃ t, exec (.auipc rs imm) s = .next t ∧ WritesReg s t rs (relTarget s.pc (imm.toNat * 2 ^ 16))) ∧
    (∃ t v, exec (.aluipc rs imm) s = .next t ∧ WritesReg s t rs v ∧
      v.toNat = (s.pc.toNat + imm.toNat * 2 ^ 16) % 2 ^ 32 / 2 ^ 16 * 2 ^ 16)

/-- LWPC writes the word at `iaddr` plus its offset; a misaligned or unmapped address fails with MemLoadError and
writes nothing (spec/49_pcrel_fpu.md R333; the base `iaddr` is the spec's decision D6, natural alignment D3). -/
def Obligations.PcRelativeLoad : Prop :=
  (∀ w : Word, opField w = 59#6 → pfunc2Field w = 1#2 → decode w = .ok (.lwpc (rsField w) (imm19Field w))) ∧
  ∀ (s : State) (rs : Reg) (imm19 : BitVec 19) (a : Word), a = relTarget s.pc (4 * imm19.toInt) →
    (a.toNat % 4 = 0 → MappedAt s a 4 → ∃ t m,
      ReadsAs s a.toNat 4 m ∧ exec (.lwpc rs imm19) s = .next t ∧ WritesReg s t rs m) ∧
    (a.toNat % 4 ≠ 0 ∨ ¬MappedAt s a 4 →
      ∃ t, exec (.lwpc rs imm19) s = .next t ∧ FailsWith s t .memLoadError)

/-- Every word with `op = 17` is the floating-point stub, which fails the step with FpuUnimplemented and
changes nothing but `pc` and `dbt` (spec/49_pcrel_fpu.md R336). That the floating-point words are those with
`op = 17` is the spec's decision D23 (spec/30_encoding.md R108; log entry 10): the document does not say. -/
def Obligations.FloatingPointStubFails : Prop :=
  (∀ w : Word, opField w = 17#6 → decode w = .ok .cop1) ∧
  ∀ s : State, ∃ t, exec .cop1 s = .next t ∧ FailsWith s t .fpuUnimplemented
end

