-- ==== Sys2Proof/Laws/Decode.lean ====
section
/-! SUPPORT. The fields of the words the encoder builds, and what each mask of the opcode table asks of a word's
fields. -/

namespace Sys2Proof

/-! ## Fields of built words -/

@[simp] theorem fiveBits_toFin (r : Fin 32) : (fiveBits r).toFin = r := rfl

@[simp] theorem fiveBits_zero : fiveBits 0 = 0#5 := rfl

/-- A field is what its bits are. -/
theorem field_eq {w : Word} {lo len : Nat} {f : BitVec len}
    (h : ∀ i < len, w.getLsbD (lo + i) = f.getLsbD i) : w.extractLsb' lo len = f :=
  BitVec.eq_of_getLsbD_eq fun i hi => by rw [BitVec.getLsbD_extractLsb', h i hi, decide_eq_true hi, Bool.true_and]

@[simp] theorem opField_rWord (op : BitVec 6) (rs rt rd sh : BitVec 5) (func : BitVec 6) :
    opField (rWord op rs rt rd sh func) = op :=
  field_eq fun i hi => by
    simp (disch := omega) only [rWord, BitVec.getLsbD_append, if_neg]
    congr 1; omega

@[simp] theorem rsField_rWord (op : BitVec 6) (rs rt rd sh : BitVec 5) (func : BitVec 6) :
    rsField (rWord op rs rt rd sh func) = rs.toFin :=
  congrArg BitVec.toFin (field_eq fun i hi => by
    simp (disch := omega) only [rWord, BitVec.getLsbD_append, if_neg, if_pos]
    congr 1; omega)

@[simp] theorem rtField_rWord (op : BitVec 6) (rs rt rd sh : BitVec 5) (func : BitVec 6) :
    rtField (rWord op rs rt rd sh func) = rt.toFin :=
  congrArg BitVec.toFin (field_eq fun i hi => by
    simp (disch := omega) only [rWord, BitVec.getLsbD_append, if_neg, if_pos]
    congr 1; omega)

@[simp] theorem rdField_rWord (op : BitVec 6) (rs rt rd sh : BitVec 5) (func : BitVec 6) :
    rdField (rWord op rs rt rd sh func) = rd.toFin :=
  congrArg BitVec.toFin (field_eq fun i hi => by
    simp (disch := omega) only [rWord, BitVec.getLsbD_append, if_neg, if_pos]
    congr 1; omega)

@[simp] theorem shamtField_rWord (op : BitVec 6) (rs rt rd sh : BitVec 5) (func : BitVec 6) :
    shamtField (rWord op rs rt rd sh func) = sh.toFin :=
  congrArg BitVec.toFin (field_eq fun i hi => by
    simp (disch := omega) only [rWord, BitVec.getLsbD_append, if_neg, if_pos]
    congr 1; omega)

@[simp] theorem funcField_rWord (op : BitVec 6) (rs rt rd sh : BitVec 5) (func : BitVec 6) :
    funcField (rWord op rs rt rd sh func) = func :=
  field_eq fun i hi => by
    simp (disch := omega) only [rWord, BitVec.getLsbD_append, if_pos]
    congr 1; omega

@[simp] theorem bfuncField_rWord (op : BitVec 6) (rs rt rd sh : BitVec 5) (func : BitVec 6) :
    bfuncField (rWord op rs rt rd sh func) = sh :=
  field_eq fun i hi => by
    simp (disch := omega) only [rWord, BitVec.getLsbD_append, if_neg, if_pos]
    congr 1; omega

@[simp] theorem msbField_rWord (op : BitVec 6) (rs rt rd sh : BitVec 5) (func : BitVec 6) :
    msbField (rWord op rs rt rd sh func) = rd.toFin :=
  congrArg BitVec.toFin (field_eq fun i hi => by
    simp (disch := omega) only [rWord, BitVec.getLsbD_append, if_neg, if_pos]
    congr 1; omega)

@[simp] theorem opField_iWord (op : BitVec 6) (rs rt : BitVec 5) (imm : BitVec 16) :
    opField (iWord op rs rt imm) = op :=
  field_eq fun i hi => by
    simp (disch := omega) only [iWord, BitVec.getLsbD_append, if_neg]
    congr 1; omega

@[simp] theorem rsField_iWord (op : BitVec 6) (rs rt : BitVec 5) (imm : BitVec 16) :
    rsField (iWord op rs rt imm) = rs.toFin :=
  congrArg BitVec.toFin (field_eq fun i hi => by
    simp (disch := omega) only [iWord, BitVec.getLsbD_append, if_neg, if_pos]
    congr 1; omega)

@[simp] theorem rtField_iWord (op : BitVec 6) (rs rt : BitVec 5) (imm : BitVec 16) :
    rtField (iWord op rs rt imm) = rt.toFin :=
  congrArg BitVec.toFin (field_eq fun i hi => by
    simp (disch := omega) only [iWord, BitVec.getLsbD_append, if_neg, if_pos]
    congr 1; omega)

@[simp] theorem immField_iWord (op : BitVec 6) (rs rt : BitVec 5) (imm : BitVec 16) :
    immField (iWord op rs rt imm) = imm :=
  field_eq fun i hi => by
    simp (disch := omega) only [iWord, BitVec.getLsbD_append, if_pos]
    congr 1; omega

@[simp] theorem subopField_iWord (op : BitVec 6) (rs rt : BitVec 5) (imm : BitVec 16) :
    subopField (iWord op rs rt imm) = rt :=
  field_eq fun i hi => by
    simp (disch := omega) only [iWord, BitVec.getLsbD_append, if_neg, if_pos]
    congr 1; omega

@[simp] theorem opField_longWord (op : BitVec 6) (rs : BitVec 5) (imm21 : BitVec 21) :
    opField (longWord op rs imm21) = op :=
  field_eq fun i hi => by
    simp (disch := omega) only [longWord, BitVec.getLsbD_append, if_neg]
    congr 1; omega

@[simp] theorem rsField_longWord (op : BitVec 6) (rs : BitVec 5) (imm21 : BitVec 21) :
    rsField (longWord op rs imm21) = rs.toFin :=
  congrArg BitVec.toFin (field_eq fun i hi => by
    simp (disch := omega) only [longWord, BitVec.getLsbD_append, if_neg, if_pos]
    congr 1; omega)

@[simp] theorem imm21Field_longWord (op : BitVec 6) (rs : BitVec 5) (imm21 : BitVec 21) :
    imm21Field (longWord op rs imm21) = imm21 :=
  field_eq fun i hi => by
    simp (disch := omega) only [longWord, BitVec.getLsbD_append, if_pos]
    congr 1; omega

@[simp] theorem opField_jWord (op : BitVec 6) (address : BitVec 26) :
    opField (jWord op address) = op :=
  field_eq fun i hi => by
    simp (disch := omega) only [jWord, BitVec.getLsbD_append, if_neg]
    congr 1; omega

@[simp] theorem addressField_jWord (op : BitVec 6) (address : BitVec 26) :
    addressField (jWord op address) = address :=
  field_eq fun i hi => by
    simp (disch := omega) only [jWord, BitVec.getLsbD_append, if_pos]
    congr 1; omega

@[simp] theorem opField_pcrelWord (rs : BitVec 5) (pfunc2 : BitVec 2) (imm19 : BitVec 19) :
    opField (pcrelWord rs pfunc2 imm19) = 59#6 :=
  field_eq fun i hi => by
    simp (disch := omega) only [pcrelWord, BitVec.getLsbD_append, if_neg]
    congr 1; omega

@[simp] theorem rsField_pcrelWord (rs : BitVec 5) (pfunc2 : BitVec 2) (imm19 : BitVec 19) :
    rsField (pcrelWord rs pfunc2 imm19) = rs.toFin :=
  congrArg BitVec.toFin (field_eq fun i hi => by
    simp (disch := omega) only [pcrelWord, BitVec.getLsbD_append, if_neg, if_pos]
    congr 1; omega)

@[simp] theorem pfunc2Field_pcrelWord (rs : BitVec 5) (pfunc2 : BitVec 2) (imm19 : BitVec 19) :
    pfunc2Field (pcrelWord rs pfunc2 imm19) = pfunc2 :=
  field_eq fun i hi => by
    simp (disch := omega) only [pcrelWord, BitVec.getLsbD_append, if_neg, if_pos]
    congr 1; omega

@[simp] theorem imm19Field_pcrelWord (rs : BitVec 5) (pfunc2 : BitVec 2) (imm19 : BitVec 19) :
    imm19Field (pcrelWord rs pfunc2 imm19) = imm19 :=
  field_eq fun i hi => by
    simp (disch := omega) only [pcrelWord, BitVec.getLsbD_append, if_pos]
    congr 1; omega

@[simp] theorem opField_trapWord (rs rt : Reg) (code : BitVec 10) (func : BitVec 6) :
    opField (trapWord rs rt code func) = 0#6 :=
  field_eq fun i hi => by
    simp (disch := omega) only [trapWord, BitVec.getLsbD_append, if_neg]
    congr 1; omega

@[simp] theorem rsField_trapWord (rs rt : Reg) (code : BitVec 10) (func : BitVec 6) :
    rsField (trapWord rs rt code func) = rs :=
  congrArg BitVec.toFin (field_eq fun i hi => by
    simp (disch := omega) only [trapWord, BitVec.getLsbD_append, if_neg, if_pos]
    congr 1; omega)

@[simp] theorem rtField_trapWord (rs rt : Reg) (code : BitVec 10) (func : BitVec 6) :
    rtField (trapWord rs rt code func) = rt :=
  congrArg BitVec.toFin (field_eq fun i hi => by
    simp (disch := omega) only [trapWord, BitVec.getLsbD_append, if_neg, if_pos]
    congr 1; omega)

@[simp] theorem codeField_trapWord (rs rt : Reg) (code : BitVec 10) (func : BitVec 6) :
    codeField (trapWord rs rt code func) = code :=
  field_eq fun i hi => by
    simp (disch := omega) only [trapWord, BitVec.getLsbD_append, if_neg, if_pos]
    congr 1; omega

@[simp] theorem funcField_trapWord (rs rt : Reg) (code : BitVec 10) (func : BitVec 6) :
    funcField (trapWord rs rt code func) = func :=
  field_eq fun i hi => by
    simp (disch := omega) only [trapWord, BitVec.getLsbD_append, if_pos]
    congr 1; omega

@[simp] theorem pfunc2Field_iWord (op : BitVec 6) (rs rt : BitVec 5) (imm : BitVec 16) :
    pfunc2Field (iWord op rs rt imm) = rt.extractLsb' 3 2 :=
  field_eq fun i hi => by
    simp (disch := omega) only [iWord, BitVec.getLsbD_append, if_neg, if_pos, BitVec.getLsbD_extractLsb', hi,
      decide_true, Bool.true_and]
    congr 1; omega

@[simp] theorem bpField_rWord (op : BitVec 6) (rs rt rd sh : BitVec 5) (func : BitVec 6) :
    bpField (rWord op rs rt rd sh func) = (sh.extractLsb' 0 2).toFin :=
  congrArg BitVec.toFin (field_eq fun i hi => by
    simp (disch := omega) only [rWord, BitVec.getLsbD_append, if_neg, if_pos, BitVec.getLsbD_extractLsb', hi,
      decide_true, Bool.true_and]
    congr 1; omega)

theorem bit21_rWord (op : BitVec 6) (rs rt rd sh : BitVec 5) (func : BitVec 6) :
    (rWord op rs rt rd sh func).getLsbD 21 = rs.getLsbD 0 := by
  simp (disch := omega) only [rWord, BitVec.getLsbD_append, if_neg, if_pos]

theorem bit6_rWord (op : BitVec 6) (rs rt rd sh : BitVec 5) (func : BitVec 6) :
    (rWord op rs rt rd sh func).getLsbD 6 = sh.getLsbD 0 := by
  simp (disch := omega) only [rWord, BitVec.getLsbD_append, if_neg, if_pos]

@[simp] theorem getElem21_rWord (op : BitVec 6) (rs rt rd sh : BitVec 5) (func : BitVec 6) :
    (rWord op rs rt rd sh func)[21] = rs[0] := bit21_rWord op rs rt rd sh func

@[simp] theorem getElem6_rWord (op : BitVec 6) (rs rt rd sh : BitVec 5) (func : BitVec 6) :
    (rWord op rs rt rd sh func)[6] = sh[0] := bit6_rWord op rs rt rd sh func

@[simp] theorem top3_rWord (op : BitVec 6) (rs rt rd sh : BitVec 5) (func : BitVec 6) :
    (rWord op rs rt rd sh func).extractLsb' 8 3 = sh.extractLsb' 2 3 :=
  field_eq fun i hi => by
    simp (disch := omega) only [rWord, BitVec.getLsbD_append, if_neg, if_pos, BitVec.getLsbD_extractLsb', hi,
      decide_true, Bool.true_and]
    congr 1; omega

/-! ## Masks -/

/-- A bit as a field of its own. -/
theorem bit_eq_iff (w p : Word) (k : Nat) :
    w.getLsbD k = p.getLsbD k ↔ w.extractLsb' k 1 = p.extractLsb' k 1 := by
  constructor
  · intro h
    exact field_eq fun i hi => by simp [show i = 0 by omega, h]
  · intro h
    simpa using congrArg (fun b : BitVec 1 => b.getLsbD 0) h

/-- A register field as bits. -/
theorem rsField_eq_iff (w p : Word) : rsField w = rsField p ↔ w.extractLsb' 21 5 = p.extractLsb' 21 5 :=
  ⟨fun h => BitVec.eq_of_toFin_eq h, congrArg BitVec.toFin⟩

/-- A register field is 0 exactly when its bits are; the same bits are `subop`. -/
theorem rtField_eq_zero_iff (w : Word) : rtField w = 0 ↔ subopField w = 0#5 :=
  ⟨fun h => BitVec.eq_of_toFin_eq h, congrArg BitVec.toFin⟩

/-- A mask of one field keeps that field and clears the rest. -/
theorem and_field (w : Word) (lo len : Nat) (h : lo + len ≤ 32) :
    w &&& ((BitVec.allOnes len).zeroExtend 32 <<< lo) = (w.extractLsb' lo len).zeroExtend 32 <<< lo := by
  refine BitVec.eq_of_getLsbD_eq fun i hi => ?_
  simp only [BitVec.getLsbD_and, BitVec.getLsbD_shiftLeft, BitVec.getLsbD_setWidth, BitVec.getLsbD_allOnes,
    BitVec.getLsbD_extractLsb']
  by_cases hlo : i < lo
  · simp [hlo]
  · by_cases hhi : i - lo < len
    · simp [hlo, hhi, hi, show lo + (i - lo) = i by omega, show i - lo < 32 by omega]
    · simp [hlo, hhi]

/-- The mask asks for the `op` field. -/
theorem mask_FC000000_iff (w : Word) {p : Word} (hp : p &&& 0xFC000000#32 = p) :
    w &&& 0xFC000000#32 = p ↔
      opField w = opField p := by
  have hm : (0xFC000000#32 : Word) =
      ((BitVec.allOnes 6).zeroExtend 32 <<< 26) := by decide
  have h0 : (0xFC000000#32 : Word).extractLsb' 26 6 = BitVec.allOnes 6 := by decide
  constructor
  · intro h
    rw [← h]
    simp only [opField, BitVec.extractLsb'_and, h0, BitVec.and_allOnes]
  · intro h
    rw [← hp, hm]
    simp only [opField] at h
    simp (disch := omega) only [and_field, h]

/-- The mask asks for `op` and `func`. -/
theorem mask_FC00003F_iff (w : Word) {p : Word} (hp : p &&& 0xFC00003F#32 = p) :
    w &&& 0xFC00003F#32 = p ↔
      opField w = opField p ∧ funcField w = funcField p := by
  have hm : (0xFC00003F#32 : Word) =
      ((BitVec.allOnes 6).zeroExtend 32 <<< 26) ||| ((BitVec.allOnes 6).zeroExtend 32 <<< 0) := by decide
  have h0 : (0xFC00003F#32 : Word).extractLsb' 26 6 = BitVec.allOnes 6 := by decide
  have h1 : (0xFC00003F#32 : Word).extractLsb' 0 6 = BitVec.allOnes 6 := by decide
  constructor
  · intro h
    rw [← h]
    simp only [funcField, opField, BitVec.extractLsb'_and, h0, h1, BitVec.and_allOnes, and_self]
  · intro h
    rw [← hp, hm]
    simp only [funcField, opField] at h
    simp (disch := omega) only [BitVec.and_or_distrib_left, and_field, h]

/-- The mask asks for `op`, bit 21 and `func`. -/
theorem mask_FC20003F_iff (w : Word) {p : Word} (hp : p &&& 0xFC20003F#32 = p) :
    w &&& 0xFC20003F#32 = p ↔
      opField w = opField p ∧ w.getLsbD 21 = p.getLsbD 21 ∧ funcField w = funcField p := by
  have hm : (0xFC20003F#32 : Word) =
      ((BitVec.allOnes 6).zeroExtend 32 <<< 26) ||| ((BitVec.allOnes 1).zeroExtend 32 <<< 21) ||| ((BitVec.allOnes 6).zeroExtend 32 <<< 0) := by decide
  have h0 : (0xFC20003F#32 : Word).extractLsb' 26 6 = BitVec.allOnes 6 := by decide
  have h1 : (0xFC20003F#32 : Word).extractLsb' 21 1 = BitVec.allOnes 1 := by decide
  have h2 : (0xFC20003F#32 : Word).extractLsb' 0 6 = BitVec.allOnes 6 := by decide
  rw [bit_eq_iff]
  constructor
  · intro h
    rw [← h]
    simp only [funcField, opField, BitVec.extractLsb'_and, h0, h1, h2, BitVec.and_allOnes, and_self]
  · intro h
    rw [← hp, hm]
    simp only [funcField, opField] at h
    simp (disch := omega) only [BitVec.and_or_distrib_left, and_field, h]

/-- The mask asks for `op`, bit 6 and `func`. -/
theorem mask_FC00007F_iff (w : Word) {p : Word} (hp : p &&& 0xFC00007F#32 = p) :
    w &&& 0xFC00007F#32 = p ↔
      opField w = opField p ∧ w.getLsbD 6 = p.getLsbD 6 ∧ funcField w = funcField p := by
  have hm : (0xFC00007F#32 : Word) =
      ((BitVec.allOnes 6).zeroExtend 32 <<< 26) ||| ((BitVec.allOnes 1).zeroExtend 32 <<< 6) ||| ((BitVec.allOnes 6).zeroExtend 32 <<< 0) := by decide
  have h0 : (0xFC00007F#32 : Word).extractLsb' 26 6 = BitVec.allOnes 6 := by decide
  have h1 : (0xFC00007F#32 : Word).extractLsb' 6 1 = BitVec.allOnes 1 := by decide
  have h2 : (0xFC00007F#32 : Word).extractLsb' 0 6 = BitVec.allOnes 6 := by decide
  rw [bit_eq_iff]
  constructor
  · intro h
    rw [← h]
    simp only [funcField, opField, BitVec.extractLsb'_and, h0, h1, h2, BitVec.and_allOnes, and_self]
  · intro h
    rw [← hp, hm]
    simp only [funcField, opField] at h
    simp (disch := omega) only [BitVec.and_or_distrib_left, and_field, h]

/-- The mask asks for `op`, bits 10..6 and `func`. -/
theorem mask_FC0007FF_iff (w : Word) {p : Word} (hp : p &&& 0xFC0007FF#32 = p) :
    w &&& 0xFC0007FF#32 = p ↔
      opField w = opField p ∧ bfuncField w = bfuncField p ∧ funcField w = funcField p := by
  have hm : (0xFC0007FF#32 : Word) =
      ((BitVec.allOnes 6).zeroExtend 32 <<< 26) ||| ((BitVec.allOnes 5).zeroExtend 32 <<< 6) ||| ((BitVec.allOnes 6).zeroExtend 32 <<< 0) := by decide
  have h0 : (0xFC0007FF#32 : Word).extractLsb' 26 6 = BitVec.allOnes 6 := by decide
  have h1 : (0xFC0007FF#32 : Word).extractLsb' 6 5 = BitVec.allOnes 5 := by decide
  have h2 : (0xFC0007FF#32 : Word).extractLsb' 0 6 = BitVec.allOnes 6 := by decide
  constructor
  · intro h
    rw [← h]
    simp only [bfuncField, funcField, opField, BitVec.extractLsb'_and, h0, h1, h2, BitVec.and_allOnes, and_self]
  · intro h
    rw [← hp, hm]
    simp only [bfuncField, funcField, opField] at h
    simp (disch := omega) only [BitVec.and_or_distrib_left, and_field, h]

/-- The mask asks for `op`, bits 10..8 and `func`. -/
theorem mask_FC00073F_iff (w : Word) {p : Word} (hp : p &&& 0xFC00073F#32 = p) :
    w &&& 0xFC00073F#32 = p ↔
      opField w = opField p ∧ w.extractLsb' 8 3 = p.extractLsb' 8 3 ∧ funcField w = funcField p := by
  have hm : (0xFC00073F#32 : Word) =
      ((BitVec.allOnes 6).zeroExtend 32 <<< 26) ||| ((BitVec.allOnes 3).zeroExtend 32 <<< 8) ||| ((BitVec.allOnes 6).zeroExtend 32 <<< 0) := by decide
  have h0 : (0xFC00073F#32 : Word).extractLsb' 26 6 = BitVec.allOnes 6 := by decide
  have h1 : (0xFC00073F#32 : Word).extractLsb' 8 3 = BitVec.allOnes 3 := by decide
  have h2 : (0xFC00073F#32 : Word).extractLsb' 0 6 = BitVec.allOnes 6 := by decide
  constructor
  · intro h
    rw [← h]
    simp only [funcField, opField, BitVec.extractLsb'_and, h0, h1, h2, BitVec.and_allOnes, and_self]
  · intro h
    rw [← hp, hm]
    simp only [funcField, opField] at h
    simp (disch := omega) only [BitVec.and_or_distrib_left, and_field, h]

/-- The mask asks for `op` and bits 20..16. -/
theorem mask_FC1F0000_iff (w : Word) {p : Word} (hp : p &&& 0xFC1F0000#32 = p) :
    w &&& 0xFC1F0000#32 = p ↔
      opField w = opField p ∧ subopField w = subopField p := by
  have hm : (0xFC1F0000#32 : Word) =
      ((BitVec.allOnes 6).zeroExtend 32 <<< 26) ||| ((BitVec.allOnes 5).zeroExtend 32 <<< 16) := by decide
  have h0 : (0xFC1F0000#32 : Word).extractLsb' 26 6 = BitVec.allOnes 6 := by decide
  have h1 : (0xFC1F0000#32 : Word).extractLsb' 16 5 = BitVec.allOnes 5 := by decide
  constructor
  · intro h
    rw [← h]
    simp only [opField, subopField, BitVec.extractLsb'_and, h0, h1, BitVec.and_allOnes, and_self]
  · intro h
    rw [← hp, hm]
    simp only [opField, subopField] at h
    simp (disch := omega) only [BitVec.and_or_distrib_left, and_field, h]

/-- The mask asks for `op` and bits 25..21. -/
theorem mask_FFE00000_iff (w : Word) {p : Word} (hp : p &&& 0xFFE00000#32 = p) :
    w &&& 0xFFE00000#32 = p ↔
      opField w = opField p ∧ rsField w = rsField p := by
  have hm : (0xFFE00000#32 : Word) =
      ((BitVec.allOnes 6).zeroExtend 32 <<< 26) ||| ((BitVec.allOnes 5).zeroExtend 32 <<< 21) := by decide
  have h0 : (0xFFE00000#32 : Word).extractLsb' 26 6 = BitVec.allOnes 6 := by decide
  have h1 : (0xFFE00000#32 : Word).extractLsb' 21 5 = BitVec.allOnes 5 := by decide
  rw [rsField_eq_iff]
  constructor
  · intro h
    rw [← h]
    simp only [opField, BitVec.extractLsb'_and, h0, h1, BitVec.and_allOnes, and_self]
  · intro h
    rw [← hp, hm]
    simp only [opField] at h
    simp (disch := omega) only [BitVec.and_or_distrib_left, and_field, h]

/-- The mask asks for `op` and `pfunc2`. -/
theorem mask_FC180000_iff (w : Word) {p : Word} (hp : p &&& 0xFC180000#32 = p) :
    w &&& 0xFC180000#32 = p ↔
      opField w = opField p ∧ pfunc2Field w = pfunc2Field p := by
  have hm : (0xFC180000#32 : Word) =
      ((BitVec.allOnes 6).zeroExtend 32 <<< 26) ||| ((BitVec.allOnes 2).zeroExtend 32 <<< 19) := by decide
  have h0 : (0xFC180000#32 : Word).extractLsb' 26 6 = BitVec.allOnes 6 := by decide
  have h1 : (0xFC180000#32 : Word).extractLsb' 19 2 = BitVec.allOnes 2 := by decide
  constructor
  · intro h
    rw [← h]
    simp only [opField, pfunc2Field, BitVec.extractLsb'_and, h0, h1, BitVec.and_allOnes, and_self]
  · intro h
    rw [← hp, hm]
    simp only [opField, pfunc2Field] at h
    simp (disch := omega) only [BitVec.and_or_distrib_left, and_field, h]

end Sys2Proof
end

