-- ==== Sys2Proof/Laws/State.lean ====
section
/-! SUPPORT. The fields of the state under each update: one lemma per field per update, so that no later proof
unfolds one. -/

namespace Sys2Proof.Machine

/-! ## Reading registers -/

@[simp] theorem reg_zero (s : State) : s.reg 0 = 0#32 := rfl

theorem reg_of_ne_zero (s : State) {r : Reg} (h : r ≠ 0) : s.reg r = s.regs.get r := if_neg h

/-- Register reads see only the register file. -/
theorem reg_congr {s t : State} (h : t.regs = s.regs) (r : Reg) : t.reg r = s.reg r := by
  simp only [State.reg, h]

@[simp] theorem setReg_zero (s : State) (v : Word) : s.setReg 0 v = s := rfl

theorem reg_setReg (s : State) (r q : Reg) (v : Word) :
    (s.setReg r v).reg q = if q = r then (if r = 0 then 0#32 else v) else s.reg q := by
  by_cases hr : r = 0
  · subst hr
    by_cases hq : q = 0 <;> simp [hq]
  · by_cases hq : q = 0
    · subst hq
      simp [Ne.symm hr]
    · by_cases hqr : q = r
      · subst hqr
        simp [State.reg, State.setReg, hr, Vector.get_eq_getElem]
      · have hv : r.val ≠ q.val := fun h => hqr (Fin.ext h.symm)
        simp [State.reg, State.setReg, hr, hq, hqr, Vector.get_eq_getElem, hv]

/-! ## Fields under updates -/

@[simp] theorem setReg_pc (s : State) (r : Reg) (v : Word) : (s.setReg r v).pc = s.pc := by
  unfold State.setReg; split <;> rfl
@[simp] theorem setReg_dbt (s : State) (r : Reg) (v : Word) : (s.setReg r v).dbt = s.dbt := by
  unfold State.setReg; split <;> rfl
@[simp] theorem setReg_exc (s : State) (r : Reg) (v : Word) : (s.setReg r v).exc = s.exc := by
  unfold State.setReg; split <;> rfl
@[simp] theorem setReg_mem (s : State) (r : Reg) (v : Word) : (s.setReg r v).mem = s.mem := by
  unfold State.setReg; split <;> rfl
@[simp] theorem setReg_config (s : State) (r : Reg) (v : Word) : (s.setReg r v).config = s.config := by
  unfold State.setReg; split <;> rfl
@[simp] theorem setReg_answer (s : State) (r : Reg) (v : Word) : (s.setReg r v).answer = s.answer := by
  unfold State.setReg; split <;> rfl

@[simp] theorem updatePc_pc (s : State) : (s.updatePc).pc = s.updatedPc := by
  unfold State.updatePc; split <;> simp_all [State.updatedPc]
@[simp] theorem updatePc_dbt (s : State) : (s.updatePc).dbt = none := by
  unfold State.updatePc; split <;> simp_all
@[simp] theorem updatePc_exc (s : State) : (s.updatePc).exc = s.exc := by
  unfold State.updatePc; split <;> rfl
@[simp] theorem updatePc_mem (s : State) : (s.updatePc).mem = s.mem := by
  unfold State.updatePc; split <;> rfl
@[simp] theorem updatePc_config (s : State) : (s.updatePc).config = s.config := by
  unfold State.updatePc; split <;> rfl
@[simp] theorem updatePc_answer (s : State) : (s.updatePc).answer = s.answer := by
  unfold State.updatePc; split <;> rfl
@[simp] theorem updatePc_reg (s : State) (q : Reg) : s.updatePc.reg q = s.reg q := by
  unfold State.updatePc; split <;> rfl

@[simp] theorem delayedBranch_pc (s : State) (t : Word) : (s.delayedBranch t).pc = s.pc := rfl
@[simp] theorem delayedBranch_dbt (s : State) (t : Word) : (s.delayedBranch t).dbt = some t := rfl
@[simp] theorem delayedBranch_exc (s : State) (t : Word) : (s.delayedBranch t).exc = s.exc := rfl
@[simp] theorem delayedBranch_mem (s : State) (t : Word) : (s.delayedBranch t).mem = s.mem := rfl
@[simp] theorem delayedBranch_config (s : State) (t : Word) : (s.delayedBranch t).config = s.config := rfl
@[simp] theorem delayedBranch_answer (s : State) (t : Word) : (s.delayedBranch t).answer = s.answer := rfl
@[simp] theorem delayedBranch_reg (s : State) (t : Word) (q : Reg) : (s.delayedBranch t).reg q = s.reg q := rfl

@[simp] theorem jump_pc (s : State) (t : Word) : (s.jump t).pc = t := rfl
@[simp] theorem jump_dbt (s : State) (t : Word) : (s.jump t).dbt = s.dbt := rfl
@[simp] theorem jump_exc (s : State) (t : Word) : (s.jump t).exc = s.exc := rfl
@[simp] theorem jump_mem (s : State) (t : Word) : (s.jump t).mem = s.mem := rfl
@[simp] theorem jump_config (s : State) (t : Word) : (s.jump t).config = s.config := rfl
@[simp] theorem jump_answer (s : State) (t : Word) : (s.jump t).answer = s.answer := rfl
@[simp] theorem jump_reg (s : State) (t : Word) (q : Reg) : (s.jump t).reg q = s.reg q := rfl

@[simp] theorem link_pc (s : State) : (s.link).pc = s.pc := setReg_pc s 31 s.pc
@[simp] theorem link_dbt (s : State) : (s.link).dbt = s.dbt := setReg_dbt s 31 s.pc
@[simp] theorem link_exc (s : State) : (s.link).exc = s.exc := setReg_exc s 31 s.pc
@[simp] theorem link_mem (s : State) : (s.link).mem = s.mem := setReg_mem s 31 s.pc
@[simp] theorem link_config (s : State) : (s.link).config = s.config := setReg_config s 31 s.pc
@[simp] theorem link_answer (s : State) : (s.link).answer = s.answer := setReg_answer s 31 s.pc
theorem link_reg (s : State) (q : Reg) : s.link.reg q = if q = 31 then s.pc else s.reg q := by
  simp [State.link, reg_setReg]
@[simp] theorem link_reg_ra (s : State) : s.link.reg 31 = s.pc := by
  simp [link_reg]

@[simp] theorem signalException_pc (s : State) (c : Cause) (raw : Word) : (s.signalException c raw).pc = s.pc := rfl
@[simp] theorem signalException_dbt (s : State) (c : Cause) (raw : Word) : (s.signalException c raw).dbt = s.dbt := rfl
@[simp] theorem signalException_exc (s : State) (c : Cause) (raw : Word) : (s.signalException c raw).exc = some ⟨c, raw⟩ := rfl
@[simp] theorem signalException_mem (s : State) (c : Cause) (raw : Word) : (s.signalException c raw).mem = s.mem := rfl
@[simp] theorem signalException_config (s : State) (c : Cause) (raw : Word) : (s.signalException c raw).config = s.config := rfl
@[simp] theorem signalException_answer (s : State) (c : Cause) (raw : Word) : (s.signalException c raw).answer = s.answer := rfl
@[simp] theorem signalException_reg (s : State) (c : Cause) (raw : Word) (q : Reg) : (s.signalException c raw).reg q = s.reg q := rfl

@[simp] theorem placeValue_pc (s : State) (a : Word) (n : AccessSize) (v : Word) : (s.placeValue a n v).pc = s.pc := rfl
@[simp] theorem placeValue_dbt (s : State) (a : Word) (n : AccessSize) (v : Word) : (s.placeValue a n v).dbt = s.dbt := rfl
@[simp] theorem placeValue_exc (s : State) (a : Word) (n : AccessSize) (v : Word) : (s.placeValue a n v).exc = s.exc := rfl
@[simp] theorem placeValue_mem (s : State) (a : Word) (n : AccessSize) (v : Word) : (s.placeValue a n v).mem = s.mem.writeBytes a.toNat (splitBytes s.config.endian v n.bytes) := rfl
@[simp] theorem placeValue_config (s : State) (a : Word) (n : AccessSize) (v : Word) : (s.placeValue a n v).config = s.config := rfl
@[simp] theorem placeValue_answer (s : State) (a : Word) (n : AccessSize) (v : Word) : (s.placeValue a n v).answer = s.answer := rfl
@[simp] theorem placeValue_reg (s : State) (a : Word) (n : AccessSize) (v : Word) (q : Reg) : (s.placeValue a n v).reg q = s.reg q := rfl

@[simp] theorem withAnswer_pc (s : State) (a : Answer) : (s.withAnswer a).pc = s.pc := rfl
@[simp] theorem withAnswer_dbt (s : State) (a : Answer) : (s.withAnswer a).dbt = s.dbt := rfl
@[simp] theorem withAnswer_exc (s : State) (a : Answer) : (s.withAnswer a).exc = s.exc := rfl
@[simp] theorem withAnswer_mem (s : State) (a : Answer) : (s.withAnswer a).mem = s.mem := rfl
@[simp] theorem withAnswer_config (s : State) (a : Answer) : (s.withAnswer a).config = s.config := rfl
@[simp] theorem withAnswer_answer (s : State) (a : Answer) : (s.withAnswer a).answer = a := rfl
@[simp] theorem withAnswer_reg (s : State) (a : Answer) (q : Reg) : (s.withAnswer a).reg q = s.reg q := rfl

@[simp] theorem cpc_eq (s : State) : s.cpc = s.updatedPc := updatePc_pc s

end Sys2Proof.Machine
end

