-- ==== Sys2Proof/Laws/Memory.lean ====
section
/-! SUPPORT. The laws of the memory: reading after writing, the canonical form, which requests are accepted, and
the bytes of a value in either order. -/

namespace Sys2Proof.Machine

/-! ## One byte -/

theorem lookupCell_of_lt {a : Nat} {l : List Host.Cell} (h : ∀ c ∈ l, a < c.1) : lookupCell a l = unlistedByte := by
  induction l with
  | nil => rfl
  | cons c l ih =>
    obtain ⟨k, v⟩ := c
    have hk : a < k := h (k, v) (by simp)
    rw [lookupCell, if_neg (by omega)]
    exact ih fun c hc => h c (by simp [hc])

theorem lookupCell_insertCell_same (a : Nat) (b : Byte) {l : List Host.Cell}
    (h : l.Pairwise fun c d => c.1 < d.1) : lookupCell a (insertCell a b l) = b := by
  induction l with
  | nil => by_cases hb : b = unlistedByte <;> simp [insertCell, lookupCell, hb]
  | cons c l ih =>
    obtain ⟨k, v⟩ := c
    obtain ⟨hk, hl⟩ := List.pairwise_cons.1 h
    by_cases hb : b = unlistedByte
    · subst hb
      rcases Nat.lt_trichotomy a k with hak | rfl | hak
      · have : ∀ c ∈ (k, v) :: l, a < c.1 := by
          intro c hc
          rcases List.mem_cons.1 hc with rfl | hc
          · exact hak
          · exact Nat.lt_trans hak (hk c hc)
        simpa [insertCell, hak] using lookupCell_of_lt this
      · simpa [insertCell] using lookupCell_of_lt hk
      · simpa [insertCell, lookupCell, Nat.not_lt.2 hak.le, hak.ne, hak.ne'] using ih hl
    · rcases Nat.lt_trichotomy a k with hak | rfl | hak
      · simp [insertCell, hak, hb, lookupCell]
      · simp [insertCell, hb, lookupCell]
      · simpa [insertCell, lookupCell, Nat.not_lt.2 hak.le, hak.ne, hak.ne'] using ih hl

theorem lookupCell_insertCell_other {a c : Nat} (b : Byte) (h : c ≠ a) (l : List Host.Cell) :
    lookupCell c (insertCell a b l) = lookupCell c l := by
  induction l with
  | nil => by_cases hb : b = unlistedByte <;> simp [insertCell, lookupCell, hb, h.symm]
  | cons d l ih =>
    obtain ⟨k, v⟩ := d
    simp only [insertCell]
    split_ifs with h1 h2 h2 h3
    · rfl
    · simp [lookupCell, h.symm]
    · simp [lookupCell, ← h2, h.symm]
    · simp [lookupCell, ← h2, h.symm]
    · simp [lookupCell, ih]

theorem mem_insertCell {a : Nat} {b : Byte} {c : Host.Cell} {l : List Host.Cell} (h : c ∈ insertCell a b l) :
    c = (a, b) ∧ b ≠ unlistedByte ∨ c ∈ l := by
  induction l with
  | nil => simp only [insertCell] at h; split_ifs at h <;> simp_all
  | cons d l ih =>
    obtain ⟨k, v⟩ := d
    simp only [insertCell] at h
    split_ifs at h <;> simp only [List.mem_cons] at h ⊢ <;> tauto

theorem insertCell_pairwise (a : Nat) (b : Byte) {l : List Host.Cell}
    (h : l.Pairwise fun c d => c.1 < d.1) : (insertCell a b l).Pairwise fun c d => c.1 < d.1 := by
  induction l with
  | nil => simp only [insertCell]; split_ifs <;> simp
  | cons d l ih =>
    obtain ⟨k, v⟩ := d
    obtain ⟨hk, hl⟩ := List.pairwise_cons.1 h
    simp only [insertCell]
    split_ifs with h1 h2 h2 h3
    · exact h
    · refine List.pairwise_cons.2 ⟨fun c hc => ?_, h⟩
      rcases List.mem_cons.1 hc with rfl | hc
      · exact h1
      · exact Nat.lt_trans h1 (hk c hc)
    · exact hl
    · exact List.pairwise_cons.2 ⟨fun c hc => by simpa [h2] using hk c hc, hl⟩
    · refine List.pairwise_cons.2 ⟨fun c hc => ?_, ih hl⟩
      rcases mem_insertCell hc with ⟨rfl, -⟩ | hc
      · show k < a
        omega
      · exact hk c hc

theorem readByte_writeByte_same (m : Memory) (a : Nat) (b : Byte) (h : m.wf) : (m.writeByte a b).readByte a = b :=
  lookupCell_insertCell_same a b h.1

theorem readByte_writeByte_other (m : Memory) {a c : Nat} (b : Byte) (h : c ≠ a) :
    (m.writeByte a b).readByte c = m.readByte c :=
  lookupCell_insertCell_other b h m.cells

theorem writeByte_wf {m : Memory} (h : m.wf) (a : Nat) (b : Byte) : (m.writeByte a b).wf :=
  ⟨insertCell_pairwise a b h.1, fun c hc => by
    rcases mem_insertCell hc with ⟨rfl, hb⟩ | hc
    · exact hb
    · exact h.2 c hc⟩

/-! ## Several bytes -/

theorem writeBytes_wf {m : Memory} (h : m.wf) (a : Nat) (l : List Byte) : (m.writeBytes a l).wf := by
  induction l generalizing m a with
  | nil => exact h
  | cons b l ih => exact ih (writeByte_wf h a b) (a + 1)

theorem mem_writeBytes {m : Memory} {a : Nat} {l : List Byte} {c : Host.Cell}
    (h : c ∈ (m.writeBytes a l).cells) : (∃ k < l.length, c.1 = a + k) ∨ c ∈ m.cells := by
  induction l generalizing m a with
  | nil => exact .inr h
  | cons b l ih =>
    rcases ih h with ⟨k, hk, hc⟩ | hc
    · exact .inl ⟨k + 1, by simpa using hk, by omega⟩
    · rcases mem_insertCell hc with ⟨rfl, -⟩ | hc
      · exact .inl ⟨0, by simp, rfl⟩
      · exact .inr hc

theorem readByte_writeBytes_other (m : Memory) (a : Nat) (l : List Byte) {c : Nat}
    (h : ¬(a ≤ c ∧ c < a + l.length)) : (m.writeBytes a l).readByte c = m.readByte c := by
  induction l generalizing m a with
  | nil => rfl
  | cons b l ih =>
    simp only [List.length_cons] at h
    rw [Memory.writeBytes, ih _ _ (by omega), readByte_writeByte_other _ _ (by omega)]

theorem readByte_writeBytes_at {m : Memory} (hm : m.wf) (a : Nat) (l : List Byte) {k : Nat} (h : k < l.length) :
    (m.writeBytes a l).readByte (a + k) = l[k] := by
  induction l generalizing m a k with
  | nil => simp at h
  | cons b l ih =>
    rw [Memory.writeBytes]
    cases k with
    | zero =>
      rw [readByte_writeBytes_other _ _ _ (by omega)]
      exact readByte_writeByte_same m a b hm
    | succ k =>
      have := ih (writeByte_wf hm a b) (a + 1) (k := k) (by simpa using h)
      rw [show a + (k + 1) = a + 1 + k by omega, this, List.getElem_cons_succ]

@[simp] theorem readBytes_length (m : Memory) (a n : Nat) : (m.readBytes a n).length = n := by
  induction n generalizing a with
  | zero => rfl
  | succ n ih => simp [Memory.readBytes, ih]

theorem readBytes_getElem (m : Memory) (a n k : Nat) (h : k < (m.readBytes a n).length) :
    (m.readBytes a n)[k] = m.readByte (a + k) := by
  induction n generalizing a k with
  | zero => simp [Memory.readBytes] at h
  | succ n ih =>
    cases k with
    | zero => rfl
    | succ k =>
      have := ih (a + 1) k (by simpa [Memory.readBytes] using h)
      simpa [Memory.readBytes, show a + (k + 1) = a + 1 + k by omega] using this

theorem readBytes_writeBytes {m : Memory} (hm : m.wf) (a : Nat) (l : List Byte) :
    (m.writeBytes a l).readBytes a l.length = l := by
  refine List.ext_getElem (by simp) fun k h1 h2 => ?_
  rw [readBytes_getElem, readByte_writeBytes_at hm a l h2]

/-! ## Values and their bytes -/

@[simp] theorem splitLittle_length (v : Word) (n : Nat) : (splitLittle v n).length = n := by
  induction n generalizing v with
  | zero => rfl
  | succ n ih => simp [splitLittle, ih]

@[simp] theorem splitBytes_length (e : Endian) (v : Word) (n : Nat) : (splitBytes e v n).length = n := by
  cases e <;> simp [splitBytes]

theorem splitLittle_getElem (v : Word) (n k : Nat) (h : k < (splitLittle v n).length) :
    (splitLittle v n)[k] = v.extractLsb' (8 * k) 8 := by
  induction n generalizing v k with
  | zero => simp [splitLittle] at h
  | succ n ih =>
    cases k with
    | zero => rfl
    | succ k =>
      simp only [splitLittle, List.getElem_cons_succ]
      rw [ih]
      ext i
      simp [Nat.mul_add, Nat.add_comm, Nat.add_left_comm]

theorem splitBytes_getElem (e : Endian) (v : Word) (n k : Nat) (h : k < (splitBytes e v n).length) :
    (splitBytes e v n)[k] =
      v.extractLsb' (8 * byteLane e n k) 8 := by
  cases e
  · exact splitLittle_getElem v n k _
  · simp [splitBytes, splitLittle_getElem, byteLane]

theorem assembleLittle_getLsbD (l : List Byte) (i : Nat) (hi : i < 32) :
    (assembleLittle l).getLsbD i = (l.getD (i / 8) 0#8).getLsbD (i % 8) := by
  induction l generalizing i with
  | nil => simp [assembleLittle]
  | cons b l ih =>
    rcases Nat.lt_or_ge i 8 with h | h
    · simp [assembleLittle, h, Nat.div_eq_of_lt h, Nat.mod_eq_of_lt h, hi]
    · have hd : i / 8 = (i - 8) / 8 + 1 := by omega
      have hm : i % 8 = (i - 8) % 8 := by omega
      have := ih (i - 8) (by omega)
      simp only [assembleLittle, BitVec.getLsbD_or, BitVec.getLsbD_shiftLeft, BitVec.getLsbD_setWidth, hd, hm,
        List.getD_cons_succ, this]
      simp [hi, Nat.not_lt.2 h, BitVec.getLsbD_of_ge b i h]

theorem getLsbD_lowBits (n : Nat) {i : Nat} (hi : i < 32) :
    (BitVec.ofNat 32 (2 ^ n - 1)).getLsbD i = decide (i < n) := by
  rw [BitVec.getLsbD_ofNat, Nat.testBit_two_pow_sub_one, decide_eq_true hi, Bool.true_and]

theorem assembleLittle_splitLittle (v : Word) (n : Nat) :
    assembleLittle (splitLittle v n) = v &&& BitVec.ofNat 32 (2 ^ (8 * n) - 1) := by
  apply BitVec.eq_of_getLsbD_eq
  intro i hi
  rw [assembleLittle_getLsbD _ _ hi, List.getD_eq_getElem?_getD, BitVec.getLsbD_and, getLsbD_lowBits _ hi]
  rcases Nat.lt_or_ge (i / 8) n with h | h
  · rw [List.getElem?_eq_getElem (by simpa using h), Option.getD_some, splitLittle_getElem]
    have : i < 8 * n := by omega
    simp [this, Nat.mod_lt, show 8 * (i / 8) + i % 8 = i by omega]
  · rw [List.getElem?_eq_none (by simpa using h)]
    have : ¬i < 8 * n := by omega
    simp [this]

theorem assemble_splitBytes (e : Endian) (v : Word) (n : Nat) :
    assemble e (splitBytes e v n) = v &&& BitVec.ofNat 32 (2 ^ (8 * n) - 1) := by
  cases e
  · exact assembleLittle_splitLittle v n
  · simpa [assemble, splitBytes] using assembleLittle_splitLittle v n

/-- Byte `j` of a value put together from bytes, in the memory's order. -/
theorem assemble_byte (e : Endian) (l : List Byte) {j : Nat} (hj : j < l.length) (h4 : l.length ≤ 4) :
    (assemble e l).extractLsb' (8 * j) 8 =
      l.getD (byteLane e l.length j) 0#8 := by
  have little : ∀ l : List Byte, j < l.length → l.length ≤ 4 →
      (assembleLittle l).extractLsb' (8 * j) 8 = l.getD j 0#8 := by
    intro l _ _
    ext i hi
    rw [BitVec.getElem_extractLsb', assembleLittle_getLsbD _ _ (by omega), show (8 * j + i) / 8 = j by omega,
      show (8 * j + i) % 8 = i by omega, BitVec.getLsbD_eq_getElem hi]
  cases e
  · exact little l hj h4
  · have := little l.reverse (by simpa using hj) (by simpa using h4)
    rw [assemble, this, List.getD_eq_getElem?_getD, List.getD_eq_getElem?_getD, List.getElem?_reverse hj, byteLane]

theorem assemble_lt (e : Endian) (l : List Byte) (h4 : l.length ≤ 4) : (assemble e l).toNat < 2 ^ (8 * l.length) := by
  have little : ∀ l : List Byte, l.length ≤ 4 → (assembleLittle l).toNat < 2 ^ (8 * l.length) := by
    intro l h
    refine Nat.lt_pow_two_of_testBit _ fun i hi => ?_
    rw [BitVec.testBit_toNat]
    rcases Nat.lt_or_ge i 32 with h32 | h32
    · rw [assembleLittle_getLsbD _ _ h32, List.getD_eq_default _ _ (by omega)]
      simp
    · exact BitVec.getLsbD_of_ge _ _ h32
  cases e
  · exact little l h4
  · simpa [assemble] using little l.reverse (by simpa using h4)

/-! ## Which requests are accepted (spec/20_memory.md R54, R55) -/

theorem allMapped_iff (c : Config) (a n : Nat) : allMapped c a n = true ↔ ∀ k < n, isMapped c (a + k) = true := by
  induction n generalizing a with
  | zero => simp [allMapped]
  | succ n ih =>
    rw [allMapped, Bool.and_eq_true, ih (a + 1), Nat.forall_lt_succ_left]
    simp [Nat.add_assoc, Nat.add_comm 1]

theorem acceptsRequest_iff (s : State) (a : Word) (n : AccessSize) :
    acceptsRequest s.config a n = true ↔ a.toNat % n.bytes = 0 ∧ MappedAt s a n.bytes := by
  simp [acceptsRequest, allMapped_iff, MappedAt]

theorem memRead_eq_none_iff (s : State) (a : Word) (n : AccessSize) :
    s.memRead a n = none ↔ a.toNat % n.bytes ≠ 0 ∨ ¬MappedAt s a n.bytes := by
  rw [State.memRead]
  split_ifs with h <;> simp_all [acceptsRequest_iff, or_iff_not_imp_left]

theorem memRead_of_accepted {s : State} {a : Word} {n : AccessSize} (ha : a.toNat % n.bytes = 0)
    (hm : MappedAt s a n.bytes) :
    s.memRead a n = some (assemble s.config.endian (s.mem.readBytes a.toNat n.bytes)) :=
  if_pos ((acceptsRequest_iff s a n).2 ⟨ha, hm⟩)

theorem memWrite_of_accepted {s : State} {a : Word} {n : AccessSize} (v : Word) (ha : a.toNat % n.bytes = 0)
    (hm : MappedAt s a n.bytes) : s.memWrite a n v = some (s.placeValue a n v) :=
  if_pos ((acceptsRequest_iff s a n).2 ⟨ha, hm⟩)

theorem memWrite_of_rejected {s : State} {a : Word} {n : AccessSize} (v : Word)
    (h : a.toNat % n.bytes ≠ 0 ∨ ¬MappedAt s a n.bytes) : s.memWrite a n v = none :=
  if_neg fun hacc => by
    obtain ⟨ha, hm⟩ := (acceptsRequest_iff s a n).1 hacc
    exact h.elim (· ha) (· hm)

/-- The value of an accepted request, byte by byte. -/
theorem readsAs_assemble (s : State) (a : Nat) (n : AccessSize) :
    ReadsAs s a n.bytes (assemble s.config.endian (s.mem.readBytes a n.bytes)) := by
  have h4 : n.bytes ≤ 4 := by cases n <;> decide
  refine ⟨by simpa using assemble_lt s.config.endian (s.mem.readBytes a n.bytes) (by simpa using h4),
    fun k hk => ?_⟩
  have hlt : byteLane s.config.endian n.bytes k < n.bytes := by
    cases s.config.endian <;> simp only [byteLane] <;> omega
  rw [assemble_byte _ _ (by simpa using hk) (by simpa using h4), List.getD_eq_getElem?_getD]
  simp only [readBytes_length]
  rw [List.getElem?_eq_getElem (by simpa using hlt), Option.getD_some, readBytes_getElem]

end Sys2Proof.Machine
end

