-- ==== Sys2Proof/Laws/Ops.lean ====
section
/-! SUPPORT. One lemma per shared shape of Sys2Proof/Machine/Ops.lean: everything it can answer, in the terms of
Sys2Proof/Safety.lean. Citing them, a proof about an instruction unfolds its meaning only. -/

namespace Sys2Proof.Machine

/-! ## How a step ends -/

theorem Keeps.of_eq {s t : State} (hm : t.mem = s.mem) (hc : t.config = s.config) (he : t.exc = s.exc) :
    Keeps s t :=
  ⟨fun a => by rw [hm], hc, he⟩

theorem doNothing_transfers (s : State) : ∃ t, doNothing s = .next t ∧ Transfers s t s.updatedPc none :=
  ⟨_, rfl, rfl, by simp, by simp, by simp, .of_eq (by simp) (by simp) (by simp)⟩

theorem writeResult_writes (rd : Reg) (v : Word) (s : State) :
    ∃ t, writeResult rd v s = .next t ∧ WritesReg s t rd v := by
  refine ⟨_, rfl, rfl, by simp, by simp, by simp [reg_setReg], fun q hq => ?_,
    .of_eq (by simp) (by simp) (by simp)⟩
  simp [reg_setReg, hq]

theorem failStep_fails (reason : FailReason) (s : State) :
    ∃ t, failStep reason s.updatePc = .next t ∧ FailsWith s t reason :=
  ⟨_, rfl, rfl, by simp, by simp, by simp, .of_eq (by simp) (by simp) (by simp)⟩

theorem raiseTrap_traps (raw : Word) (s : State) :
    ∃ t, raiseTrap raw s.updatePc = .next t ∧ Traps s t raw :=
  ⟨_, rfl, rfl, by simp, by simp, by simp, by simp, by simp, by simp⟩

/-! ## Shapes with a condition -/

theorem divideInto_zero (rd : Reg) (v : Word) (s : State) {divisor : Word} (h : divisor = 0#32) :
    ∃ t, divideInto rd divisor v s = .next t ∧ FailsWith s t .divideByZero := by
  simpa [divideInto, h] using failStep_fails .divideByZero s

theorem divideInto_nonzero (rd : Reg) (v : Word) (s : State) {divisor : Word} (h : divisor ≠ 0#32) :
    ∃ t, divideInto rd divisor v s = .next t ∧ WritesReg s t rd v := by
  simpa [divideInto, h] using writeResult_writes rd v s

theorem fieldInto_out (rt : Reg) (v : Word) (s : State) {out : Bool} (h : out = true) :
    ∃ t, fieldInto rt out v s = .next t ∧ FailsWith s t .bitfieldRange := by
  simpa [fieldInto, h] using failStep_fails .bitfieldRange s

theorem fieldInto_in (rt : Reg) (v : Word) (s : State) {out : Bool} (h : out = false) :
    ∃ t, fieldInto rt out v s = .next t ∧ WritesReg s t rt v := by
  simpa [fieldInto, h] using writeResult_writes rt v s

theorem trapIf_effect (c : Bool) (raw : Word) (s : State) :
    ∃ t, trapIf c raw s = .next t ∧ (c = true → Traps s t raw) ∧
      (c = false → Transfers s t s.updatedPc none) := by
  cases c
  · obtain ⟨t, h, ht⟩ := doNothing_transfers s
    exact ⟨t, by simpa [trapIf] using h, by simp, fun _ => ht⟩
  · obtain ⟨t, h, ht⟩ := raiseTrap_traps raw s
    exact ⟨t, by simpa [trapIf] using h, fun _ => ht, by simp⟩

/-! ## Transfers -/

theorem branchDelayed_transfers (c : Bool) (t : Word) (s : State) :
    ∃ u, branchDelayed c t s = .next u ∧ Transfers s u s.updatedPc (if c then some t else none) := by
  cases c <;>
    exact ⟨_, rfl, rfl, by simp, by simp, by simp, .of_eq (by simp) (by simp) (by simp)⟩

theorem jumpDelayedLink_transfers (t : Word) (s : State) :
    ∃ u, jumpDelayedLink t s = .next u ∧ TransfersLinking s u s.updatedPc (some t) :=
  ⟨_, rfl, rfl, by simp, by simp, by simp, fun q hq => by simp [link_reg, hq],
    .of_eq (by simp) (by simp) (by simp)⟩

theorem branchCompact_transfers (c : Bool) (t : Word) (s : State) :
    ∃ u, branchCompact c t s = .next u ∧ Transfers s u (if c then t else s.updatedPc) none := by
  cases c <;>
    exact ⟨_, rfl, rfl, by simp, by simp, by simp, .of_eq (by simp) (by simp) (by simp)⟩

theorem branchCompactLink_transfers (c : Bool) (t : Word) (s : State) :
    ∃ u, branchCompactLink c t s = .next u ∧ TransfersLinking s u (if c then t else s.updatedPc) none := by
  cases c <;>
    exact ⟨_, rfl, rfl, by simp, by simp, by simp, fun q hq => by simp [link_reg, hq],
      .of_eq (by simp) (by simp) (by simp)⟩

/-! ## Memory requests -/

theorem loadInto_accepted (rt : Reg) (addr : Word) (n : AccessSize) (extend : Word → Word) (s : State)
    {v : Word} (h : s.memRead addr n = some v) :
    ∃ t, loadInto rt addr n extend s = .next t ∧ WritesReg s t rt (extend v) := by
  simpa [loadInto, h] using writeResult_writes rt (extend v) s

theorem loadInto_error (rt : Reg) (addr : Word) (n : AccessSize) (extend : Word → Word) (s : State)
    (h : s.memRead addr n = none) :
    ∃ t, loadInto rt addr n extend s = .next t ∧ FailsWith s t .memLoadError := by
  simpa [loadInto, h] using failStep_fails .memLoadError s

theorem storeFrom_accepted (addr : Word) (n : AccessSize) (v : Word) (s : State) {u : State}
    (h : s.memWrite addr n v = some u) :
    storeFrom addr n v s = .next (u.updatePc.withAnswer .success) := by
  simp [storeFrom, h, succeed]

/-- An accepted store stores the low bytes of `v` and does nothing else. -/
theorem storeFrom_stores (addr : Word) (n : AccessSize) (v : Word) (s : State) (hw : s.mem.wf)
    (ha : addr.toNat % n.bytes = 0) (hm : MappedAt s addr n.bytes) :
    ∃ t, storeFrom addr n v s = .next t ∧ StoresAt s t addr.toNat n.bytes v := by
  refine ⟨_, storeFrom_accepted addr n v s (memWrite_of_accepted v ha hm), rfl, by simp [State.updatedPc], by simp,
    by simp, by simp, by simp, fun k hk => ?_, fun b hb => ?_⟩
  · simp only [withAnswer_mem, updatePc_mem, placeValue_mem]
    rw [readByte_writeBytes_at hw _ _ (by simpa using hk), splitBytes_getElem]
  · simp only [withAnswer_mem, updatePc_mem, placeValue_mem]
    exact readByte_writeBytes_other _ _ _ (by simpa using hb)

theorem storeFrom_error (addr : Word) (n : AccessSize) (v : Word) (s : State) (h : s.memWrite addr n v = none) :
    ∃ t, storeFrom addr n v s = .next t ∧ FailsWith s t .memStoreError := by
  simpa [storeFrom, h] using failStep_fails .memStoreError s

end Sys2Proof.Machine
end

