-- ==== Sys2Proof/Laws/Exec.lean ====
section
/-! SUPPORT. Everything one instruction can do, said once: `Effect i s t` lists the states in which `exec i s` can
end, as updates of `s`, and `exec_effect` says that `exec` always ends in one of them. A property of every step is
then one case per line of `Effect`. -/

namespace Sys2Proof.Machine

/-- The states an instruction can leave, from the state before the step. -/
inductive Effect (i : Instr) (s : State) : State → Prop
  /-- Nothing but `update_pc()`. -/
  | nothing : Effect i s (s.updatePc.withAnswer .success)
  /-- One register written, the one `destination` names. -/
  | result (r : Reg) (v : Word) (hd : destination i = some r) :
      Effect i s ((s.updatePc.setReg r v).withAnswer .success)
  /-- A failure that records nothing. -/
  | failure (reason : FailReason) (ht : reason ≠ .trap) (hf : reason ≠ .fetchError) :
      Effect i s (s.updatePc.withAnswer (.failure reason))
  /-- A trap. -/
  | trap (hi : isTrap i = true) :
      Effect i s ((s.updatePc.signalException .trap (encode i)).withAnswer (.failure .trap))
  /-- A legacy transfer, taken. -/
  | arm (T : Word) (hi : isLegacyTransfer i = true) :
      Effect i s ((s.updatePc.delayedBranch T).withAnswer .success)
  /-- A legacy jump that links. -/
  | linkArm (T : Word) (hi : isLegacyTransfer i = true) (hd : destination i = some 31) :
      Effect i s ((s.updatePc.link.delayedBranch T).withAnswer .success)
  /-- A compact transfer, taken. -/
  | jump (T : Word) (hi : isCompactTransfer i = true) :
      Effect i s ((s.updatePc.jump T).withAnswer .success)
  /-- A compact transfer that links, taken. -/
  | linkJump (T : Word) (hi : isCompactTransfer i = true) (hd : destination i = some 31) :
      Effect i s ((s.updatePc.link.jump T).withAnswer .success)
  /-- A compact transfer that links, not taken. -/
  | link (hi : isCompactTransfer i = true) (hd : destination i = some 31) :
      Effect i s (s.updatePc.link.withAnswer .success)
  /-- An accepted store. -/
  | store (a : Word) (n : AccessSize) (v : Word) (hi : storeRequest s i = some (a, n))
      (hm : acceptsRequest s.config a n = true) :
      Effect i s ((s.placeValue a n v).updatePc.withAnswer .success)

/-! ## The shapes -/

section Shapes

variable {i : Instr} {s : State}

theorem effect_writeResult {rd : Reg} {v : Word} (hd : destination i = some rd) :
    ∃ t, writeResult rd v s = .next t ∧ Effect i s t :=
  ⟨_, rfl, .result rd v hd⟩

theorem effect_divideInto {rd : Reg} {d v : Word} (hd : destination i = some rd) :
    ∃ t, divideInto rd d v s = .next t ∧ Effect i s t := by
  unfold divideInto
  split
  · exact ⟨_, rfl, .failure _ (by decide) (by decide)⟩
  · exact effect_writeResult hd

theorem effect_fieldInto {rt : Reg} {out : Bool} {v : Word} (hd : destination i = some rt) :
    ∃ t, fieldInto rt out v s = .next t ∧ Effect i s t := by
  unfold fieldInto
  split
  · exact ⟨_, rfl, .failure _ (by decide) (by decide)⟩
  · exact effect_writeResult hd

theorem effect_trapIf {c : Bool} (hi : isTrap i = true) :
    ∃ t, trapIf c (encode i) s = .next t ∧ Effect i s t := by
  cases c
  · exact ⟨_, rfl, .nothing⟩
  · exact ⟨_, rfl, .trap hi⟩

theorem effect_branchDelayed {c : Bool} {T : Word} (hi : isLegacyTransfer i = true) :
    ∃ t, branchDelayed c T s = .next t ∧ Effect i s t := by
  cases c
  · exact ⟨_, rfl, .nothing⟩
  · exact ⟨_, rfl, .arm T hi⟩

theorem effect_jumpDelayedLink {T : Word} (hi : isLegacyTransfer i = true) (hd : destination i = some 31) :
    ∃ t, jumpDelayedLink T s = .next t ∧ Effect i s t :=
  ⟨_, rfl, .linkArm T hi hd⟩

theorem effect_branchCompact {c : Bool} {T : Word} (hi : isCompactTransfer i = true) :
    ∃ t, branchCompact c T s = .next t ∧ Effect i s t := by
  cases c
  · exact ⟨_, rfl, .nothing⟩
  · exact ⟨_, rfl, .jump T hi⟩

theorem effect_branchCompactLink {c : Bool} {T : Word} (hi : isCompactTransfer i = true)
    (hd : destination i = some 31) : ∃ t, branchCompactLink c T s = .next t ∧ Effect i s t := by
  cases c
  · exact ⟨_, rfl, .link hi hd⟩
  · exact ⟨_, rfl, .linkJump T hi hd⟩

theorem effect_loadInto {rt : Reg} {a : Word} {n : AccessSize} {f : Word → Word} (hd : destination i = some rt) :
    ∃ t, loadInto rt a n f s = .next t ∧ Effect i s t := by
  unfold loadInto
  split
  · exact ⟨_, rfl, .failure _ (by decide) (by decide)⟩
  · exact effect_writeResult hd

theorem effect_storeFrom {a : Word} {n : AccessSize} {v : Word} (hi : storeRequest s i = some (a, n)) :
    ∃ t, storeFrom a n v s = .next t ∧ Effect i s t := by
  by_cases h : acceptsRequest s.config a n = true
  · exact ⟨_, storeFrom_accepted a n v s (if_pos h), .store a n v hi h⟩
  · refine ⟨_, ?_, .failure .memStoreError (by decide) (by decide)⟩
    simp [storeFrom, State.memWrite, h, failStep]

end Shapes

/-! ## Every instruction -/

theorem exec_effect (i : Instr) (s : State) : ∃ t, exec i s = .next t ∧ Effect i s t := by
  cases i <;> simp only [exec] <;>
    first
      | exact effect_writeResult rfl
      | exact effect_divideInto rfl
      | exact effect_fieldInto rfl
      | exact effect_trapIf rfl
      | exact effect_branchDelayed rfl
      | exact effect_jumpDelayedLink rfl rfl
      | exact effect_branchCompact rfl
      | exact effect_branchCompactLink rfl rfl
      | exact effect_loadInto rfl
      | exact effect_storeFrom rfl
      | exact ⟨_, rfl, .nothing⟩
      | exact ⟨_, rfl, .failure .fpuUnimplemented (by decide) (by decide)⟩

end Sys2Proof.Machine
end

