-- ==== Sys2Proof/Laws/Operands.lean ====
section
/-! SUPPORT. The operand forms and comparisons in terms of exact integers and bits: what a proof about a result cites
instead of unfolding them. -/

namespace Sys2Proof.Machine

/-! ## Offsets and targets -/

theorem relTarget_eq (base : Word) (off : Int) : relTarget base off = base + BitVec.ofInt 32 off := by
  simp [relTarget, BitVec.ofInt_add]

theorem sext16_eq (imm : BitVec 16) : sext16 imm = BitVec.ofInt 32 imm.toInt := rfl

theorem add_sext16 (base : Word) (imm : BitVec 16) : base + sext16 imm = relTarget base imm.toInt := by
  rw [relTarget_eq, sext16_eq]

theorem effectiveAddress_eq (base : Word) (imm : BitVec 16) : effectiveAddress base imm = relTarget base imm.toInt :=
  add_sext16 base imm

theorem branchTarget_eq (cpc : Word) (imm : BitVec 16) : branchTarget cpc imm = relTarget cpc (4 * imm.toInt) := by
  rw [relTarget_eq, BitVec.ofInt_mul, BitVec.mul_comm]; rfl

theorem branchTarget21_eq (cpc : Word) (imm21 : BitVec 21) :
    branchTarget21 cpc imm21 = relTarget cpc (4 * imm21.toInt) := by
  rw [relTarget_eq, BitVec.ofInt_mul, BitVec.mul_comm]; rfl

theorem branchTarget26_eq (cpc : Word) (address : BitVec 26) :
    branchTarget26 cpc address = relTarget cpc (4 * address.toInt) := by
  rw [relTarget_eq, BitVec.ofInt_mul, BitVec.mul_comm]; rfl

/-! ## Comparisons -/

theorem ltSigned_iff (a b : Word) : ltSigned a b = true ↔ a.toInt < b.toInt := by simp [ltSigned]

theorem ltUnsigned_iff (a b : Word) : ltUnsigned a b = true ↔ a.toNat < b.toNat := by simp [ltUnsigned]

theorem geSigned_iff (a b : Word) : geSigned a b = true ↔ a.toInt ≥ b.toInt := by simp [geSigned, ltSigned]

theorem geUnsigned_iff (a b : Word) : geUnsigned a b = true ↔ a.toNat ≥ b.toNat := by
  simp [geUnsigned, ltUnsigned]

theorem ltZero_iff (a : Word) : ltZero a = true ↔ a.toInt < 0 := by simp [ltZero, ltSigned]

theorem geZero_iff (a : Word) : geZero a = true ↔ a.toInt ≥ 0 := by simp [geZero, ltZero, ltSigned]

theorem gtZero_iff (a : Word) : gtZero a = true ↔ a.toInt > 0 := by simp [gtZero, ltSigned]

theorem leZero_iff (a : Word) : leZero a = true ↔ a.toInt ≤ 0 := by simp [leZero, gtZero, ltSigned]

/-! ## Shifts and counts -/

theorem shiftAmount_eq (v : Word) : shiftAmount v = v.toNat % 32 := by simp [shiftAmount]

theorem shiftAmount_lt (v : Word) : shiftAmount v < 32 := by rw [shiftAmount_eq]; omega

/-- The run `leadingRun` counts: that many bits equal `b`, and the next one, if any, does not. -/
theorem leadingRun_spec (b : Bool) (v : Word) (n : Nat) :
    leadingRun b v n ≤ n ∧ (∀ k < n, n - leadingRun b v n ≤ k → v.getLsbD k = b) ∧
      (leadingRun b v n < n → v.getLsbD (n - 1 - leadingRun b v n) = !b) := by
  induction n with
  | zero => simp [leadingRun]
  | succ n ih =>
    obtain ⟨hle, hrun, hnext⟩ := ih
    by_cases h : v.getLsbD n = b
    · simp only [leadingRun, h, BEq.rfl, if_true]
      refine ⟨by omega, fun k hk hk' => ?_, fun hk => ?_⟩
      · by_cases hkn : k = n
        · rw [hkn, h]
        · exact hrun k (by omega) (by omega)
      · rw [← hnext (by omega)]
        congr 1
        omega
    · simp only [leadingRun, beq_iff_eq, h, if_false]
      refine ⟨by omega, fun k hk hk' => by omega, fun _ => ?_⟩
      cases b <;> simp_all

/-! ## Division -/

theorem divisionOverflows_iff (a b : Word) : divisionOverflows a b = true ↔ a.toInt = -2 ^ 31 ∧ b.toInt = -1 := by
  simp only [divisionOverflows, Bool.and_eq_true, beq_iff_eq]
  rw [← BitVec.toInt_inj (y := 0x80000000#32), ← BitVec.toInt_inj (y := 0xFFFFFFFF#32)]
  rfl

/-! ## Bit fields -/

theorem lowMask_getLsbD {size i : Nat} (hi : i < 32) : (lowMask size).getLsbD i = decide (i < size) := by
  rw [lowMask, BitVec.getLsbD_ofNat, Nat.testBit_two_pow_sub_one, decide_eq_true hi, Bool.true_and]

end Sys2Proof.Machine
end

