-- ==== Sys2Proof/Laws/PerInstr.lean ====
section
/-! SUPPORT. The family `Encoding` of statements made per instruction: the word the encoder writes for a well-formed
instruction is a word of that instruction's row of the opcode table. -/

namespace Sys2Proof.Laws.Encoding

/-- The row of the opcode table that carries the instruction's mnemonic selects its word
(spec/30_encoding.md R112). -/
def Statement (i : Instr) : Prop :=
  i.wellFormed = true → ∃ r ∈ opcodeTable, r.mnemonic = i.mnemonic ∧ r.selects (encode i) = true

/-- Row `k` of the table selects the word if the mask and the constraint do. -/
theorem of_row {i : Instr} (k : Nat) {r : Row} (hk : opcodeTable[k]? = some r) (hm : r.mnemonic = i.mnemonic)
    (hs : encode i &&& r.mask = r.pattern)
    (hc : i.wellFormed = true → r.constraint.holds (rsField (encode i)) (rtField (encode i)) = true) :
    Statement i := fun h =>
  ⟨r, List.mem_of_getElem? hk, hm, by simp only [Row.selects, hs, BEq.rfl, Bool.true_and, hc h]⟩

/-! ## The masks on the words the encoder builds -/

section Masks

variable {op func : BitVec 6} {rs rt rd sh : BitVec 5} {imm : BitVec 16} {p : Word}

theorem rWord_FC00003F (h : p &&& 0xFC00003F#32 = p ∧ op = opField p ∧ func = funcField p) :
    rWord op rs rt rd sh func &&& 0xFC00003F#32 = p :=
  (mask_FC00003F_iff _ h.1).2 (by simpa using h.2)

theorem rWord_FC20003F (h : p &&& 0xFC20003F#32 = p ∧ op = opField p ∧ rs.getLsbD 0 = p.getLsbD 21 ∧
    func = funcField p) : rWord op rs rt rd sh func &&& 0xFC20003F#32 = p :=
  (mask_FC20003F_iff _ h.1).2 (by rw [bit21_rWord, opField_rWord, funcField_rWord]; exact h.2)

theorem rWord_FC00007F (h : p &&& 0xFC00007F#32 = p ∧ op = opField p ∧ sh.getLsbD 0 = p.getLsbD 6 ∧
    func = funcField p) : rWord op rs rt rd sh func &&& 0xFC00007F#32 = p :=
  (mask_FC00007F_iff _ h.1).2 (by rw [bit6_rWord, opField_rWord, funcField_rWord]; exact h.2)

theorem rWord_FC0007FF (h : p &&& 0xFC0007FF#32 = p ∧ op = opField p ∧ sh = bfuncField p ∧ func = funcField p) :
    rWord op rs rt rd sh func &&& 0xFC0007FF#32 = p :=
  (mask_FC0007FF_iff _ h.1).2 (by simpa using h.2)

theorem rWord_FC00073F (h : p &&& 0xFC00073F#32 = p ∧ op = opField p ∧
    sh.extractLsb' 2 3 = p.extractLsb' 8 3 ∧ func = funcField p) :
    rWord op rs rt rd sh func &&& 0xFC00073F#32 = p :=
  (mask_FC00073F_iff _ h.1).2 (by rw [top3_rWord, opField_rWord, funcField_rWord]; exact h.2)

theorem trapWord_FC00003F {rs rt : Reg} {code : BitVec 10}
    (h : p &&& 0xFC00003F#32 = p ∧ 0#6 = opField p ∧ func = funcField p) :
    trapWord rs rt code func &&& 0xFC00003F#32 = p :=
  (mask_FC00003F_iff _ h.1).2 (by simpa using h.2)

theorem iWord_FC000000 (h : p &&& 0xFC000000#32 = p ∧ op = opField p) :
    iWord op rs rt imm &&& 0xFC000000#32 = p :=
  (mask_FC000000_iff _ h.1).2 (by simpa using h.2)

theorem iWord_FC1F0000 (h : p &&& 0xFC1F0000#32 = p ∧ op = opField p ∧ rt = subopField p) :
    iWord op rs rt imm &&& 0xFC1F0000#32 = p :=
  (mask_FC1F0000_iff _ h.1).2 (by simpa using h.2)

theorem iWord_FFE00000 (h : p &&& 0xFFE00000#32 = p ∧ op = opField p ∧ rs.toFin = rsField p) :
    iWord op rs rt imm &&& 0xFFE00000#32 = p :=
  (mask_FFE00000_iff _ h.1).2 (by rw [opField_iWord, rsField_iWord]; exact h.2)

theorem longWord_FC000000 {imm21 : BitVec 21} (h : p &&& 0xFC000000#32 = p ∧ op = opField p) :
    longWord op rs imm21 &&& 0xFC000000#32 = p :=
  (mask_FC000000_iff _ h.1).2 (by simpa using h.2)

theorem jWord_FC000000 {address : BitVec 26} (h : p &&& 0xFC000000#32 = p ∧ op = opField p) :
    jWord op address &&& 0xFC000000#32 = p :=
  (mask_FC000000_iff _ h.1).2 (by simpa using h.2)

theorem pcrelWord_FC180000 {pfunc2 : BitVec 2} {imm19 : BitVec 19}
    (h : p &&& 0xFC180000#32 = p ∧ 59#6 = opField p ∧ pfunc2 = pfunc2Field p) :
    pcrelWord rs pfunc2 imm19 &&& 0xFC180000#32 = p :=
  (mask_FC180000_iff _ h.1).2 (by simpa using h.2)

end Masks

/-! ## One lemma per constructor -/

theorem sll (rd rt : Reg) (shamt : BitIndex) : Statement (.sll rd rt shamt) :=
  of_row 0 rfl rfl (rWord_FC00003F (by decide)) (fun _ => rfl)

theorem srl (rd rt : Reg) (shamt : BitIndex) : Statement (.srl rd rt shamt) :=
  of_row 1 rfl rfl (rWord_FC20003F (by decide)) (fun _ => rfl)

theorem rotr (rd rt : Reg) (shamt : BitIndex) : Statement (.rotr rd rt shamt) :=
  of_row 2 rfl rfl (rWord_FC20003F (by decide)) (fun _ => rfl)

theorem sra (rd rt : Reg) (shamt : BitIndex) : Statement (.sra rd rt shamt) :=
  of_row 3 rfl rfl (rWord_FC00003F (by decide)) (fun _ => rfl)

theorem sllv (rd rt rs : Reg) : Statement (.sllv rd rt rs) :=
  of_row 4 rfl rfl (rWord_FC00003F (by decide)) (fun _ => rfl)

theorem srlv (rd rt rs : Reg) : Statement (.srlv rd rt rs) :=
  of_row 5 rfl rfl (rWord_FC00007F (by decide)) (fun _ => rfl)

theorem rotrv (rd rt rs : Reg) : Statement (.rotrv rd rt rs) :=
  of_row 6 rfl rfl (rWord_FC00007F (by decide)) (fun _ => rfl)

theorem srav (rd rt rs : Reg) : Statement (.srav rd rt rs) :=
  of_row 7 rfl rfl (rWord_FC00003F (by decide)) (fun _ => rfl)

theorem jr (rs : Reg) : Statement (.jr rs) :=
  of_row 8 rfl rfl (rWord_FC00003F (by decide)) (fun _ => rfl)

theorem jalr (rs : Reg) : Statement (.jalr rs) :=
  of_row 9 rfl rfl (rWord_FC00003F (by decide)) (fun _ => rfl)

theorem clz (rd rs : Reg) : Statement (.clz rd rs) :=
  of_row 10 rfl rfl (rWord_FC00003F (by decide)) (fun _ => rfl)

theorem clo (rd rs : Reg) : Statement (.clo rd rs) :=
  of_row 11 rfl rfl (rWord_FC00003F (by decide)) (fun _ => rfl)

theorem mul (rd rs rt : Reg) : Statement (.mul rd rs rt) :=
  of_row 12 rfl rfl (rWord_FC0007FF (by decide)) (fun _ => rfl)

theorem muh (rd rs rt : Reg) : Statement (.muh rd rs rt) :=
  of_row 13 rfl rfl (rWord_FC0007FF (by decide)) (fun _ => rfl)

theorem mulu (rd rs rt : Reg) : Statement (.mulu rd rs rt) :=
  of_row 14 rfl rfl (rWord_FC0007FF (by decide)) (fun _ => rfl)

theorem muhu (rd rs rt : Reg) : Statement (.muhu rd rs rt) :=
  of_row 15 rfl rfl (rWord_FC0007FF (by decide)) (fun _ => rfl)

theorem div (rd rs rt : Reg) : Statement (.div rd rs rt) :=
  of_row 16 rfl rfl (rWord_FC0007FF (by decide)) (fun _ => rfl)

theorem mod (rd rs rt : Reg) : Statement (.mod rd rs rt) :=
  of_row 17 rfl rfl (rWord_FC0007FF (by decide)) (fun _ => rfl)

theorem divu (rd rs rt : Reg) : Statement (.divu rd rs rt) :=
  of_row 18 rfl rfl (rWord_FC0007FF (by decide)) (fun _ => rfl)

theorem modu (rd rs rt : Reg) : Statement (.modu rd rs rt) :=
  of_row 19 rfl rfl (rWord_FC0007FF (by decide)) (fun _ => rfl)

theorem add (rd rs rt : Reg) : Statement (.add rd rs rt) :=
  of_row 20 rfl rfl (rWord_FC00003F (by decide)) (fun _ => rfl)

theorem addu (rd rs rt : Reg) : Statement (.addu rd rs rt) :=
  of_row 21 rfl rfl (rWord_FC00003F (by decide)) (fun _ => rfl)

theorem sub (rd rs rt : Reg) : Statement (.sub rd rs rt) :=
  of_row 22 rfl rfl (rWord_FC00003F (by decide)) (fun _ => rfl)

theorem subu (rd rs rt : Reg) : Statement (.subu rd rs rt) :=
  of_row 23 rfl rfl (rWord_FC00003F (by decide)) (fun _ => rfl)

theorem and (rd rs rt : Reg) : Statement (.and rd rs rt) :=
  of_row 24 rfl rfl (rWord_FC00003F (by decide)) (fun _ => rfl)

theorem or (rd rs rt : Reg) : Statement (.or rd rs rt) :=
  of_row 25 rfl rfl (rWord_FC00003F (by decide)) (fun _ => rfl)

theorem xor (rd rs rt : Reg) : Statement (.xor rd rs rt) :=
  of_row 26 rfl rfl (rWord_FC00003F (by decide)) (fun _ => rfl)

theorem nor (rd rs rt : Reg) : Statement (.nor rd rs rt) :=
  of_row 27 rfl rfl (rWord_FC00003F (by decide)) (fun _ => rfl)

theorem slt (rd rs rt : Reg) : Statement (.slt rd rs rt) :=
  of_row 28 rfl rfl (rWord_FC00003F (by decide)) (fun _ => rfl)

theorem sltu (rd rs rt : Reg) : Statement (.sltu rd rs rt) :=
  of_row 29 rfl rfl (rWord_FC00003F (by decide)) (fun _ => rfl)

theorem tge (rs rt : Reg) (code : BitVec 10) : Statement (.tge rs rt code) :=
  of_row 30 rfl rfl (trapWord_FC00003F (by decide)) (fun _ => rfl)

theorem tgeu (rs rt : Reg) (code : BitVec 10) : Statement (.tgeu rs rt code) :=
  of_row 31 rfl rfl (trapWord_FC00003F (by decide)) (fun _ => rfl)

theorem tlt (rs rt : Reg) (code : BitVec 10) : Statement (.tlt rs rt code) :=
  of_row 32 rfl rfl (trapWord_FC00003F (by decide)) (fun _ => rfl)

theorem tltu (rs rt : Reg) (code : BitVec 10) : Statement (.tltu rs rt code) :=
  of_row 33 rfl rfl (trapWord_FC00003F (by decide)) (fun _ => rfl)

theorem teq (rs rt : Reg) (code : BitVec 10) : Statement (.teq rs rt code) :=
  of_row 34 rfl rfl (trapWord_FC00003F (by decide)) (fun _ => rfl)

theorem seleqz (rd rs rt : Reg) : Statement (.seleqz rd rs rt) :=
  of_row 35 rfl rfl (rWord_FC00003F (by decide)) (fun _ => rfl)

theorem tne (rs rt : Reg) (code : BitVec 10) : Statement (.tne rs rt code) :=
  of_row 36 rfl rfl (trapWord_FC00003F (by decide)) (fun _ => rfl)

theorem selnez (rd rs rt : Reg) : Statement (.selnez rd rs rt) :=
  of_row 37 rfl rfl (rWord_FC00003F (by decide)) (fun _ => rfl)

theorem bltz (rs : Reg) (imm : BitVec 16) : Statement (.bltz rs imm) :=
  of_row 38 rfl rfl (iWord_FC1F0000 (by decide)) (fun _ => rfl)

theorem bgez (rs : Reg) (imm : BitVec 16) : Statement (.bgez rs imm) :=
  of_row 39 rfl rfl (iWord_FC1F0000 (by decide)) (fun _ => rfl)

theorem j (address : BitVec 26) : Statement (.j address) :=
  of_row 40 rfl rfl (jWord_FC000000 (by decide)) (fun _ => rfl)

theorem jal (address : BitVec 26) : Statement (.jal address) :=
  of_row 41 rfl rfl (jWord_FC000000 (by decide)) (fun _ => rfl)

theorem beq (rs rt : Reg) (imm : BitVec 16) : Statement (.beq rs rt imm) :=
  of_row 42 rfl rfl (iWord_FC000000 (by decide)) (fun _ => rfl)

theorem bne (rs rt : Reg) (imm : BitVec 16) : Statement (.bne rs rt imm) :=
  of_row 43 rfl rfl (iWord_FC000000 (by decide)) (fun _ => rfl)

theorem blez (rs : Reg) (imm : BitVec 16) : Statement (.blez rs imm) :=
  of_row 44 rfl rfl (iWord_FC1F0000 (by decide))
    (fun _ => by simp [Constraint.holds, encode, immWord])

theorem blezalc (rt : Reg) (imm : BitVec 16) : Statement (.blezalc rt imm) :=
  of_row 45 rfl rfl (iWord_FFE00000 (by decide))
    (fun h => by simpa [Constraint.holds, Instr.wellFormed, encode, immWord] using h)

theorem bgezalc (rt : Reg) (imm : BitVec 16) : Statement (.bgezalc rt imm) :=
  of_row 46 rfl rfl (iWord_FC000000 (by decide))
    (fun h => by simpa [Constraint.holds, Instr.wellFormed, encode, immWord] using h)

theorem bgeuc (rs rt : Reg) (imm : BitVec 16) : Statement (.bgeuc rs rt imm) :=
  of_row 47 rfl rfl (iWord_FC000000 (by decide))
    (fun h => by simpa [Constraint.holds, Instr.wellFormed, encode, immWord] using h)

theorem bgtz (rs : Reg) (imm : BitVec 16) : Statement (.bgtz rs imm) :=
  of_row 48 rfl rfl (iWord_FC1F0000 (by decide))
    (fun _ => by simp [Constraint.holds, encode, immWord])

theorem bgtzalc (rt : Reg) (imm : BitVec 16) : Statement (.bgtzalc rt imm) :=
  of_row 49 rfl rfl (iWord_FFE00000 (by decide))
    (fun h => by simpa [Constraint.holds, Instr.wellFormed, encode, immWord] using h)

theorem bltzalc (rt : Reg) (imm : BitVec 16) : Statement (.bltzalc rt imm) :=
  of_row 50 rfl rfl (iWord_FC000000 (by decide))
    (fun h => by simpa [Constraint.holds, Instr.wellFormed, encode, immWord] using h)

theorem bltuc (rs rt : Reg) (imm : BitVec 16) : Statement (.bltuc rs rt imm) :=
  of_row 51 rfl rfl (iWord_FC000000 (by decide))
    (fun h => by simpa [Constraint.holds, Instr.wellFormed, encode, immWord] using h)

theorem beqzalc (rt : Reg) (imm : BitVec 16) : Statement (.beqzalc rt imm) :=
  of_row 52 rfl rfl (iWord_FFE00000 (by decide))
    (fun h => by simpa [Constraint.holds, Instr.wellFormed, encode, immWord] using h)

theorem beqc (rs rt : Reg) (imm : BitVec 16) : Statement (.beqc rs rt imm) :=
  of_row 53 rfl rfl (iWord_FC000000 (by decide))
    (fun h => by simpa [Constraint.holds, Instr.wellFormed, encode, immWord] using h)

theorem bovc (rs rt : Reg) (imm : BitVec 16) : Statement (.bovc rs rt imm) :=
  of_row 54 rfl rfl (iWord_FC000000 (by decide))
    (fun h => by simpa [Constraint.holds, Instr.wellFormed, encode, immWord] using h)

theorem addiu (rt rs : Reg) (imm : BitVec 16) : Statement (.addiu rt rs imm) :=
  of_row 55 rfl rfl (iWord_FC000000 (by decide)) (fun _ => rfl)

theorem slti (rt rs : Reg) (imm : BitVec 16) : Statement (.slti rt rs imm) :=
  of_row 56 rfl rfl (iWord_FC000000 (by decide)) (fun _ => rfl)

theorem sltiu (rt rs : Reg) (imm : BitVec 16) : Statement (.sltiu rt rs imm) :=
  of_row 57 rfl rfl (iWord_FC000000 (by decide)) (fun _ => rfl)

theorem andi (rt rs : Reg) (imm : BitVec 16) : Statement (.andi rt rs imm) :=
  of_row 58 rfl rfl (iWord_FC000000 (by decide)) (fun _ => rfl)

theorem ori (rt rs : Reg) (imm : BitVec 16) : Statement (.ori rt rs imm) :=
  of_row 59 rfl rfl (iWord_FC000000 (by decide)) (fun _ => rfl)

theorem xori (rt rs : Reg) (imm : BitVec 16) : Statement (.xori rt rs imm) :=
  of_row 60 rfl rfl (iWord_FC000000 (by decide)) (fun _ => rfl)

theorem aui (rt rs : Reg) (imm : BitVec 16) : Statement (.aui rt rs imm) :=
  of_row 61 rfl rfl (iWord_FC000000 (by decide)) (fun _ => rfl)

theorem cop1 : Statement .cop1 :=
  of_row 62 rfl rfl (iWord_FC000000 (by decide)) (fun _ => rfl)

theorem blezc (rt : Reg) (imm : BitVec 16) : Statement (.blezc rt imm) :=
  of_row 63 rfl rfl (iWord_FFE00000 (by decide))
    (fun h => by simpa [Constraint.holds, Instr.wellFormed, encode, immWord] using h)

theorem bgezc (rt : Reg) (imm : BitVec 16) : Statement (.bgezc rt imm) :=
  of_row 64 rfl rfl (iWord_FC000000 (by decide))
    (fun h => by simpa [Constraint.holds, Instr.wellFormed, encode, immWord] using h)

theorem bgec (rs rt : Reg) (imm : BitVec 16) : Statement (.bgec rs rt imm) :=
  of_row 65 rfl rfl (iWord_FC000000 (by decide))
    (fun h => by simpa [Constraint.holds, Instr.wellFormed, encode, immWord] using h)

theorem pop26Nop : Statement .pop26Nop :=
  of_row 66 rfl rfl (iWord_FC1F0000 (by decide)) (fun _ => rfl)

theorem bgtzc (rt : Reg) (imm : BitVec 16) : Statement (.bgtzc rt imm) :=
  of_row 67 rfl rfl (iWord_FFE00000 (by decide))
    (fun h => by simpa [Constraint.holds, Instr.wellFormed, encode, immWord] using h)

theorem bltzc (rt : Reg) (imm : BitVec 16) : Statement (.bltzc rt imm) :=
  of_row 68 rfl rfl (iWord_FC000000 (by decide))
    (fun h => by simpa [Constraint.holds, Instr.wellFormed, encode, immWord] using h)

theorem bltc (rs rt : Reg) (imm : BitVec 16) : Statement (.bltc rs rt imm) :=
  of_row 69 rfl rfl (iWord_FC000000 (by decide))
    (fun h => by simpa [Constraint.holds, Instr.wellFormed, encode, immWord] using h)

theorem pop27Nop : Statement .pop27Nop :=
  of_row 70 rfl rfl (iWord_FC1F0000 (by decide)) (fun _ => rfl)

theorem bnezalc (rt : Reg) (imm : BitVec 16) : Statement (.bnezalc rt imm) :=
  of_row 71 rfl rfl (iWord_FFE00000 (by decide))
    (fun h => by simpa [Constraint.holds, Instr.wellFormed, encode, immWord] using h)

theorem bnec (rs rt : Reg) (imm : BitVec 16) : Statement (.bnec rs rt imm) :=
  of_row 72 rfl rfl (iWord_FC000000 (by decide))
    (fun h => by simpa [Constraint.holds, Instr.wellFormed, encode, immWord] using h)

theorem bnvc (rs rt : Reg) (imm : BitVec 16) : Statement (.bnvc rs rt imm) :=
  of_row 73 rfl rfl (iWord_FC000000 (by decide))
    (fun h => by simpa [Constraint.holds, Instr.wellFormed, encode, immWord] using h)

theorem ext (rt rs : Reg) (lsb msbd : BitIndex) : Statement (.ext rt rs lsb msbd) :=
  of_row 74 rfl rfl (rWord_FC00003F (by decide)) (fun _ => rfl)

theorem ins (rt rs : Reg) (lsb msb : BitIndex) : Statement (.ins rt rs lsb msb) :=
  of_row 75 rfl rfl (rWord_FC00003F (by decide)) (fun _ => rfl)

theorem bitswap (rd rt : Reg) : Statement (.bitswap rd rt) :=
  of_row 76 rfl rfl (rWord_FC0007FF (by decide)) (fun _ => rfl)

theorem wsbh (rd rt : Reg) : Statement (.wsbh rd rt) :=
  of_row 77 rfl rfl (rWord_FC0007FF (by decide)) (fun _ => rfl)

theorem align (rd rs rt : Reg) (bp : Fin 4) : Statement (.align rd rs rt bp) :=
  of_row 78 rfl rfl (rWord_FC00073F (by revert bp; decide)) (fun _ => rfl)

theorem seb (rd rt : Reg) : Statement (.seb rd rt) :=
  of_row 79 rfl rfl (rWord_FC0007FF (by decide)) (fun _ => rfl)

theorem seh (rd rt : Reg) : Statement (.seh rd rt) :=
  of_row 80 rfl rfl (rWord_FC0007FF (by decide)) (fun _ => rfl)

theorem lb (rt : Reg) (imm : BitVec 16) (rs : Reg) : Statement (.lb rt imm rs) :=
  of_row 81 rfl rfl (iWord_FC000000 (by decide)) (fun _ => rfl)

theorem lh (rt : Reg) (imm : BitVec 16) (rs : Reg) : Statement (.lh rt imm rs) :=
  of_row 82 rfl rfl (iWord_FC000000 (by decide)) (fun _ => rfl)

theorem lw (rt : Reg) (imm : BitVec 16) (rs : Reg) : Statement (.lw rt imm rs) :=
  of_row 83 rfl rfl (iWord_FC000000 (by decide)) (fun _ => rfl)

theorem lbu (rt : Reg) (imm : BitVec 16) (rs : Reg) : Statement (.lbu rt imm rs) :=
  of_row 84 rfl rfl (iWord_FC000000 (by decide)) (fun _ => rfl)

theorem lhu (rt : Reg) (imm : BitVec 16) (rs : Reg) : Statement (.lhu rt imm rs) :=
  of_row 85 rfl rfl (iWord_FC000000 (by decide)) (fun _ => rfl)

theorem sb (rt : Reg) (imm : BitVec 16) (rs : Reg) : Statement (.sb rt imm rs) :=
  of_row 86 rfl rfl (iWord_FC000000 (by decide)) (fun _ => rfl)

theorem sh (rt : Reg) (imm : BitVec 16) (rs : Reg) : Statement (.sh rt imm rs) :=
  of_row 87 rfl rfl (iWord_FC000000 (by decide)) (fun _ => rfl)

theorem sw (rt : Reg) (imm : BitVec 16) (rs : Reg) : Statement (.sw rt imm rs) :=
  of_row 88 rfl rfl (iWord_FC000000 (by decide)) (fun _ => rfl)

theorem bc (address : BitVec 26) : Statement (.bc address) :=
  of_row 89 rfl rfl (jWord_FC000000 (by decide)) (fun _ => rfl)

theorem jic (rt : Reg) (imm : BitVec 16) : Statement (.jic rt imm) :=
  of_row 90 rfl rfl (iWord_FFE00000 (by decide))
    (fun _ => by simp [Constraint.holds, encode, immWord])

theorem beqzc (rs : Reg) (imm21 : BitVec 21) : Statement (.beqzc rs imm21) :=
  of_row 91 rfl rfl (longWord_FC000000 (by decide))
    (fun h => by simpa [Constraint.holds, Instr.wellFormed, encode] using h)

theorem balc (address : BitVec 26) : Statement (.balc address) :=
  of_row 92 rfl rfl (jWord_FC000000 (by decide)) (fun _ => rfl)

theorem addiupc (rs : Reg) (imm19 : BitVec 19) : Statement (.addiupc rs imm19) :=
  of_row 93 rfl rfl (pcrelWord_FC180000 (by decide)) (fun _ => rfl)

theorem lwpc (rs : Reg) (imm19 : BitVec 19) : Statement (.lwpc rs imm19) :=
  of_row 94 rfl rfl (pcrelWord_FC180000 (by decide)) (fun _ => rfl)

theorem auipc (rs : Reg) (imm : BitVec 16) : Statement (.auipc rs imm) :=
  of_row 95 rfl rfl (iWord_FC1F0000 (by decide)) (fun _ => rfl)

theorem aluipc (rs : Reg) (imm : BitVec 16) : Statement (.aluipc rs imm) :=
  of_row 96 rfl rfl (iWord_FC1F0000 (by decide)) (fun _ => rfl)

theorem jialc (rt : Reg) (imm : BitVec 16) : Statement (.jialc rt imm) :=
  of_row 97 rfl rfl (iWord_FFE00000 (by decide))
    (fun _ => by simp [Constraint.holds, encode, immWord])

theorem bnezc (rs : Reg) (imm21 : BitVec 21) : Statement (.bnezc rs imm21) :=
  of_row 98 rfl rfl (longWord_FC000000 (by decide))
    (fun h => by simpa [Constraint.holds, Instr.wellFormed, encode] using h)

end Sys2Proof.Laws.Encoding
end

