-- ==== Sys2Proof/Laws/Step.lean ====
section
/-! SUPPORT. The three ways a step goes: no fetch, a word that selects no instruction, or one instruction. -/

namespace Sys2Proof.Machine

theorem step_of_fetch_none {s : State} (h : s.fetch = none) :
    step s = .next (s.withAnswer (.failure .fetchError)) := by
  simp [step, h, failStep]

theorem step_of_reject {s : State} {w : Word} {r : Reject} (h : s.fetch = some w) (hd : decode w = .error r) :
    step s = .next (s.updatePc.withAnswer (.failure (rejectReason s r))) := by
  simp [step, h, hd, rejectStep, failStep]

theorem step_of_decode {s : State} {w : Word} {i : Instr} (h : s.fetch = some w) (hd : decode w = .ok i) :
    step s = exec i s := by
  simp [step, h, hd]

/-- A rejected word's reason is none of the other outcomes. -/
theorem rejectReason_cases (s : State) (r : Reject) :
    rejectReason s r = .decodeError ∨ rejectReason s r = .unrecognisedOp ∨ rejectReason s r = .divideByZero := by
  cases r <;> simp only [rejectReason]
  · simp
  · simp
  · split <;> simp

/-- What a step that answers `t` has done. -/
theorem step_cases {s t : State} (h : step s = .next t) :
    (s.fetch = none ∧ t = s.withAnswer (.failure .fetchError)) ∨
    (∃ w r, s.fetch = some w ∧ decode w = .error r ∧
      t = s.updatePc.withAnswer (.failure (rejectReason s r))) ∨
    (∃ w i, s.fetch = some w ∧ decode w = .ok i ∧ exec i s = .next t ∧ Effect i s t) := by
  cases hf : s.fetch with
  | none =>
    rw [step_of_fetch_none hf, Host.Outcome.next.injEq] at h
    exact .inl ⟨rfl, h.symm⟩
  | some w =>
    cases hd : decode w with
    | error r =>
      rw [step_of_reject hf hd, Host.Outcome.next.injEq] at h
      exact .inr (.inl ⟨w, r, rfl, hd, h.symm⟩)
    | ok i =>
      rw [step_of_decode hf hd] at h
      obtain ⟨u, hu, he⟩ := exec_effect i s
      rw [h, Host.Outcome.next.injEq] at hu
      exact .inr (.inr ⟨w, i, rfl, hd, h, hu ▸ he⟩)

end Sys2Proof.Machine
end

