-- ==== Sys2Proof/Tests/Slice0.lean ====
section
/-! SUPPORT. The model's own tests: terms the well-formedness check refuses; the decoding of a word of every
constructor; one step of every instruction on a state of spec/95_test_vectors.md (the number in a test's name is the
vector's), whose results the spec's authors worked out from its rules; and, for every statement of
Sys2Proof/Certificates/Slice0/Obligations.lean that has hypotheses, a witness that meets them. -/

namespace Sys2Proof.Tests

open Sys2Proof Sys2Proof.Machine

/-! ## Well-formedness: every check refuses an ill-formed term (spec/44_pop_compact.md) -/

theorem test_illformed_zero_register :
    Instr.wellFormed (.blezalc 0 1) = false ∧ Instr.wellFormed (.bgezalc 0 1) = false ∧
    Instr.wellFormed (.bgtzalc 0 1) = false ∧ Instr.wellFormed (.bltzalc 0 1) = false ∧
    Instr.wellFormed (.beqzalc 0 1) = false ∧ Instr.wellFormed (.bnezalc 0 1) = false ∧
    Instr.wellFormed (.blezc 0 1) = false ∧ Instr.wellFormed (.bgezc 0 1) = false ∧
    Instr.wellFormed (.bgtzc 0 1) = false ∧ Instr.wellFormed (.bltzc 0 1) = false ∧
    Instr.wellFormed (.beqzc 0 1) = false ∧ Instr.wellFormed (.bnezc 0 1) = false := by
  decide

theorem test_illformed_distinct :
    Instr.wellFormed (.bgeuc 0 9 1) = false ∧ Instr.wellFormed (.bgeuc 9 0 1) = false ∧
    Instr.wellFormed (.bgeuc 9 9 1) = false ∧ Instr.wellFormed (.bltuc 0 9 1) = false ∧
    Instr.wellFormed (.bltuc 9 0 1) = false ∧ Instr.wellFormed (.bltuc 9 9 1) = false ∧
    Instr.wellFormed (.bgec 0 9 1) = false ∧ Instr.wellFormed (.bgec 9 0 1) = false ∧
    Instr.wellFormed (.bgec 9 9 1) = false ∧ Instr.wellFormed (.bltc 0 9 1) = false ∧
    Instr.wellFormed (.bltc 9 0 1) = false ∧ Instr.wellFormed (.bltc 9 9 1) = false := by
  decide

theorem test_illformed_order :
    Instr.wellFormed (.beqc 0 9 1) = false ∧ Instr.wellFormed (.beqc 9 8 1) = false ∧
    Instr.wellFormed (.beqc 9 9 1) = false ∧ Instr.wellFormed (.bnec 0 9 1) = false ∧
    Instr.wellFormed (.bnec 9 8 1) = false ∧ Instr.wellFormed (.bovc 8 9 1) = false ∧
    Instr.wellFormed (.bnvc 8 9 1) = false ∧ Instr.wellFormed (.bovc 0 0 1) = true ∧
    Instr.wellFormed (.beqc 8 9 1) = true ∧ Instr.wellFormed (.bgeuc 9 8 1) = true := by
  decide

/-! ## Decoding: words written out field by field (spec/30_encoding.md R98 to R102) -/

theorem test_decode_special_alu_1 :
    decode 0b000000_01000_01001_01010_00000_100000#32 = .ok (.add 10 8 9) ∧
    decode 0b000000_01000_01001_01010_00000_100001#32 = .ok (.addu 10 8 9) ∧
    decode 0b000000_01000_01001_01010_00000_100010#32 = .ok (.sub 10 8 9) ∧
    decode 0b000000_01000_01001_01010_00000_100011#32 = .ok (.subu 10 8 9) ∧
    decode 0b000000_01000_01001_01010_00000_100100#32 = .ok (.and 10 8 9) ∧
    decode 0b000000_01000_01001_01010_00000_100101#32 = .ok (.or 10 8 9) ∧
    decode 0b000000_01000_01001_01010_00000_100110#32 = .ok (.xor 10 8 9) ∧
    decode 0b000000_01000_01001_01010_00000_100111#32 = .ok (.nor 10 8 9) ∧
    decode 0b000000_01000_01001_01010_00000_101010#32 = .ok (.slt 10 8 9) ∧
    decode 0b000000_01000_01001_01010_00000_101011#32 = .ok (.sltu 10 8 9) ∧
    decode 0b000000_01000_01001_01010_00000_110101#32 = .ok (.seleqz 10 8 9) ∧
    decode 0b000000_01000_01001_01010_00000_110111#32 = .ok (.selnez 10 8 9) := by
  decide

theorem test_decode_special_alu_2 :
    decode 0b000000_01000_00000_01010_00001_010000#32 = .ok (.clz 10 8) ∧
    decode 0b000000_01000_00000_01010_00001_010001#32 = .ok (.clo 10 8) ∧
    decode 0b000000_00000_01001_01010_00001_000000#32 = .ok (.sll 10 9 1) ∧
    decode 0b000000_00000_01001_01010_00100_000010#32 = .ok (.srl 10 9 4) ∧
    decode 0b000000_00001_01000_01010_01001_000010#32 = .ok (.rotr 10 8 9) ∧
    decode 0b000000_00000_01001_01010_00001_000011#32 = .ok (.sra 10 9 1) ∧
    decode 0b000000_01000_01001_01010_00000_000100#32 = .ok (.sllv 10 9 8) ∧
    decode 0b000000_01000_01001_01010_00000_000110#32 = .ok (.srlv 10 9 8) ∧
    decode 0b000000_01000_01001_01010_00001_000110#32 = .ok (.rotrv 10 9 8) ∧
    decode 0b000000_01000_01001_01010_00000_000111#32 = .ok (.srav 10 9 8) := by
  decide

theorem test_decode_special_muldiv :
    decode 0b000000_01000_01001_01010_00010_011000#32 = .ok (.mul 10 8 9) ∧
    decode 0b000000_01000_01001_01010_00011_011000#32 = .ok (.muh 10 8 9) ∧
    decode 0b000000_01000_01001_01010_00010_011001#32 = .ok (.mulu 10 8 9) ∧
    decode 0b000000_01000_01001_01010_00011_011001#32 = .ok (.muhu 10 8 9) ∧
    decode 0b000000_01000_01001_01010_00010_011010#32 = .ok (.div 10 8 9) ∧
    decode 0b000000_01000_01001_01010_00011_011010#32 = .ok (.mod 10 8 9) ∧
    decode 0b000000_01000_01001_01010_00010_011011#32 = .ok (.divu 10 8 9) ∧
    decode 0b000000_01000_01001_01010_00011_011011#32 = .ok (.modu 10 8 9) := by
  decide

theorem test_decode_special_jump_trap :
    decode 0b000000_01000_00000_00000_00000_001000#32 = .ok (.jr 8) ∧
    decode 0b000000_11111_00000_11111_00000_001001#32 = .ok (.jalr 31) ∧
    decode 0b000000_01000_01001_0101010101_110100#32 = .ok (.teq 8 9 0x155#10) ∧
    decode 0b000000_01000_01001_0000000000_110110#32 = .ok (.tne 8 9 0x0#10) ∧
    decode 0b000000_01000_01001_0000000000_110000#32 = .ok (.tge 8 9 0x0#10) ∧
    decode 0b000000_01000_01001_0000000000_110001#32 = .ok (.tgeu 8 9 0x0#10) ∧
    decode 0b000000_01000_01001_0000000000_110010#32 = .ok (.tlt 8 9 0x0#10) ∧
    decode 0b000000_01000_01001_0000000000_110011#32 = .ok (.tltu 8 9 0x0#10) := by
  decide

theorem test_decode_immediates :
    decode 0b001001_01000_01001_1000000000000000#32 = .ok (.addiu 9 8 0x8000#16) ∧
    decode 0b001111_01000_01001_1000000000000000#32 = .ok (.aui 9 8 0x8000#16) ∧
    decode 0b001010_01000_01001_0111111111111111#32 = .ok (.slti 9 8 0x7FFF#16) ∧
    decode 0b001011_01000_01001_1000000000000000#32 = .ok (.sltiu 9 8 0x8000#16) ∧
    decode 0b001100_01000_01001_1000000000000000#32 = .ok (.andi 9 8 0x8000#16) ∧
    decode 0b001101_01000_01001_1000000000000001#32 = .ok (.ori 9 8 0x8001#16) ∧
    decode 0b001110_01000_01001_1111111111111111#32 = .ok (.xori 9 8 0xFFFF#16) := by
  decide

theorem test_decode_legacy_branches :
    decode 0b000100_01000_01001_1000000000000000#32 = .ok (.beq 8 9 0x8000#16) ∧
    decode 0b000101_01000_01001_0000000000010000#32 = .ok (.bne 8 9 0x10#16) ∧
    decode 0b000110_01000_00000_0000000000010000#32 = .ok (.blez 8 0x10#16) ∧
    decode 0b000111_01000_00000_0000000000010000#32 = .ok (.bgtz 8 0x10#16) ∧
    decode 0b000001_01000_00000_0000000000001000#32 = .ok (.bltz 8 0x8#16) ∧
    decode 0b000001_01000_00001_1111111111111100#32 = .ok (.bgez 8 0xFFFC#16) := by
  decide

theorem test_decode_compact_1 :
    decode 0b000110_00000_11111_0000000000010000#32 = .ok (.blezalc 31 0x10#16) ∧
    decode 0b000110_01001_01001_0000000000010000#32 = .ok (.bgezalc 9 0x10#16) ∧
    decode 0b000111_00000_01001_0000000000010000#32 = .ok (.bgtzalc 9 0x10#16) ∧
    decode 0b000111_01001_01001_0000000000010000#32 = .ok (.bltzalc 9 0x10#16) ∧
    decode 0b001000_00000_01001_0000000000010000#32 = .ok (.beqzalc 9 0x10#16) ∧
    decode 0b011000_00000_01001_0000000000010000#32 = .ok (.bnezalc 9 0x10#16) ∧
    decode 0b000110_01000_01001_0000000000010000#32 = .ok (.bgeuc 8 9 0x10#16) ∧
    decode 0b000111_01000_01001_0000000000010000#32 = .ok (.bltuc 8 9 0x10#16) ∧
    decode 0b001000_01000_01001_0000000000010000#32 = .ok (.beqc 8 9 0x10#16) ∧
    decode 0b011000_01000_01001_0000000000010000#32 = .ok (.bnec 8 9 0x10#16) ∧
    decode 0b001000_01001_01000_0000000000010000#32 = .ok (.bovc 9 8 0x10#16) ∧
    decode 0b011000_01001_01000_0000000000010000#32 = .ok (.bnvc 9 8 0x10#16) := by
  decide

theorem test_decode_compact_2 :
    decode 0b010110_00000_01001_0000000000010000#32 = .ok (.blezc 9 0x10#16) ∧
    decode 0b010110_01001_01001_0000000000010000#32 = .ok (.bgezc 9 0x10#16) ∧
    decode 0b010110_01000_01001_0000000000010000#32 = .ok (.bgec 8 9 0x10#16) ∧
    decode 0b010111_00000_01001_0000000000010000#32 = .ok (.bgtzc 9 0x10#16) ∧
    decode 0b010111_01001_01001_0000000000010000#32 = .ok (.bltzc 9 0x10#16) ∧
    decode 0b010111_01000_01001_0000000000010000#32 = .ok (.bltc 8 9 0x10#16) ∧
    decode 0b010110_01000_00000_0000000000010000#32 = .ok .pop26Nop ∧
    decode 0b010111_01000_00000_0000000000010000#32 = .ok .pop27Nop ∧
    decode 0b110110_00000_01001_1111111111111100#32 = .ok (.jic 9 0xFFFC#16) ∧
    decode 0b111110_00000_11111_0000000000000100#32 = .ok (.jialc 31 0x4#16) ∧
    decode 0b110110_01000_100000000000000000000#32 = .ok (.beqzc 8 0x100000#21) ∧
    decode 0b111110_01000_010010000000000010000#32 = .ok (.bnezc 8 0x90010#21) := by
  decide

theorem test_decode_loads_stores :
    decode 0b100000_01000_01001_0000000000000011#32 = .ok (.lb 9 0x3#16 8) ∧
    decode 0b100100_01000_01001_0000000000000011#32 = .ok (.lbu 9 0x3#16 8) ∧
    decode 0b100001_01000_01001_0000000000000010#32 = .ok (.lh 9 0x2#16 8) ∧
    decode 0b100101_01000_01001_0000000000000010#32 = .ok (.lhu 9 0x2#16 8) ∧
    decode 0b100011_01000_01001_1111111111111100#32 = .ok (.lw 9 0xFFFC#16 8) ∧
    decode 0b101000_01000_01001_0000000000000001#32 = .ok (.sb 9 0x1#16 8) ∧
    decode 0b101001_01000_01001_0000000000000010#32 = .ok (.sh 9 0x2#16 8) ∧
    decode 0b101011_01000_01001_0000000000000000#32 = .ok (.sw 9 0x0#16 8) := by
  decide

theorem test_decode_jtype :
    decode 0b000010_11111111111111111111111111#32 = .ok (.j 0x3FFFFFF#26) ∧
    decode 0b000011_00000000000000000001000000#32 = .ok (.jal 0x40#26) ∧
    decode 0b110010_10000000000000000000000000#32 = .ok (.bc 0x2000000#26) ∧
    decode 0b111010_00000000000000000000000100#32 = .ok (.balc 0x4#26) := by
  decide

theorem test_decode_special3 :
    decode 0b011111_00000_01000_01010_00000_100000#32 = .ok (.bitswap 10 8) ∧
    decode 0b011111_00000_01000_01010_00010_100000#32 = .ok (.wsbh 10 8) ∧
    decode 0b011111_01000_01001_01010_01000_100000#32 = .ok (.align 10 8 9 0) ∧
    decode 0b011111_00000_01000_01010_10000_100000#32 = .ok (.seb 10 8) ∧
    decode 0b011111_00000_01000_01010_11000_100000#32 = .ok (.seh 10 8) ∧
    decode 0b011111_01000_01010_01011_01000_000000#32 = .ok (.ext 10 8 8 11) ∧
    decode 0b011111_01000_01010_00111_00100_000100#32 = .ok (.ins 10 8 4 7) := by
  decide

theorem test_decode_pcrel_fpu :
    decode 0b111011_01000_00_0000000000000010000#32 = .ok (.addiupc 8 0x10#19) ∧
    decode 0b111011_01000_01_1111111111111111111#32 = .ok (.lwpc 8 0x7FFFF#19) ∧
    decode 0b111011_01000_11110_0000000000000001#32 = .ok (.auipc 8 0x1#16) ∧
    decode 0b111011_01000_11111_1111111111111111#32 = .ok (.aluipc 8 0xFFFF#16) ∧
    decode 0b010001_01000_00000_0000000000000100#32 = .ok .cop1 := by
  decide

/-- The bits of a table row, little-endian or big, are the word itself. -/
theorem test_decodeTableWord :
    decodeTableWord 32 0x01095020 = some (.add 10 8 9) ∧ decodeTableWord 32 0x0000000C = none := by
  decide

/-! ## One step of every instruction -/

/-- A state with the given registers and one instruction word at `iaddr`, everything else as after reset. -/
def start (regs : List (Reg × Word)) (iaddr w : Word) : State :=
  ((regs.foldl (fun s r => s.setReg r.1 r.2) State.reset).jump iaddr).placeValue iaddr .word w

/-- The same with `MEM_ENDIAN` = big. -/
def startBig (regs : List (Reg × Word)) (iaddr w : Word) : State :=
  ((regs.foldl (fun (s : State) r => s.setReg r.1 r.2)
    { State.reset with config := { Config.reference with endian := .big } }).jump iaddr).placeValue iaddr .word w

/-- A word stored at `a` as well. -/
def withWord (a v : Word) (s : State) : State := s.placeValue a .word v


/-- `MAPPED` cut down to one range. -/
def onlyMapped (s : State) (first last : Nat) : State :=
  { s with config := { s.config with mapped := [⟨first, last⟩] } }

/-- The state after one step. -/
def after (s : State) : State :=
  match step s with
  | .next t => t
  | .fault _ => s
  | .refused _ => s

/-- The answer, one register, `pc`, `dbt` and `exc`. -/
def seen (r : Reg) (t : State) : Answer × Word × Word × Option Word × Option ExcRecord :=
  (t.answer, t.reg r, t.pc, t.dbt, t.exc)

/-- The answer, what a read of memory gives, `pc`, `dbt` and `exc`. -/
def stored (a : Word) (n : AccessSize) (t : State) : Answer × Option Word × Word × Option Word × Option ExcRecord :=
  (t.answer, t.memRead a n, t.pc, t.dbt, t.exc)

/-! ### SPECIAL: arithmetic, logic, shifts, compares, selects, counts -/

theorem test_add_V1 : seen 10 (after (start [(8, 0x7FFFFFFF), (9, 0x1)] 0x1000 0x1095020)) =
    (.success, 0x80000000, 0x1004, none, none) := by decide

theorem test_addu_V3 : seen 10 (after (start [(8, 0x80000000), (9, 0x80000000)] 0x1000 0x1095021)) =
    (.success, 0x0, 0x1004, none, none) := by decide

theorem test_sub_V6 : seen 10 (after (start [(8, 0x80000000), (9, 0x1)] 0x1000 0x1095022)) =
    (.success, 0x7FFFFFFF, 0x1004, none, none) := by decide

theorem test_subu_V7 : seen 10 (after (start [(8, 0x0), (9, 0x1)] 0x1000 0x1095023)) =
    (.success, 0xFFFFFFFF, 0x1004, none, none) := by decide

theorem test_and_V9 : seen 10 (after (start [(8, 0xF0F0FF00), (9, 0xFF0F0F0)] 0x1000 0x1095024)) =
    (.success, 0xF0F000, 0x1004, none, none) := by decide

theorem test_or_V10 : seen 10 (after (start [(8, 0xF0F0FF00), (9, 0xFF0F0F0)] 0x1000 0x1095025)) =
    (.success, 0xFFF0FFF0, 0x1004, none, none) := by decide

theorem test_xor_V11 : seen 10 (after (start [(8, 0xF0F0FF00), (9, 0xFF0F0F0)] 0x1000 0x1095026)) =
    (.success, 0xFF000FF0, 0x1004, none, none) := by decide

theorem test_nor_V12 : seen 10 (after (start [(8, 0xF0F0FF00), (9, 0xFF0F0F0)] 0x1000 0x1095027)) =
    (.success, 0xF000F, 0x1004, none, none) := by decide

theorem test_slt_V17 : seen 10 (after (start [(8, 0x80000000), (9, 0x7FFFFFFF)] 0x1000 0x109502A)) =
    (.success, 0x1, 0x1004, none, none) := by decide

theorem test_sltu_V18 : seen 10 (after (start [(8, 0xFFFFFFFF), (9, 0x1)] 0x1000 0x109502B)) =
    (.success, 0x0, 0x1004, none, none) := by decide

theorem test_seleqz_V22 : seen 10 (after (start [(8, 0xAAAA5555), (9, 0x80000000)] 0x1000 0x1095035)) =
    (.success, 0x0, 0x1004, none, none) := by decide

theorem test_selnez_V24 : seen 10 (after (start [(8, 0xAAAA5555), (9, 0x1)] 0x1000 0x1095037)) =
    (.success, 0xAAAA5555, 0x1004, none, none) := by decide

theorem test_clz_V27 : seen 10 (after (start [(8, 0x10000)] 0x1000 0x1005050)) =
    (.success, 0xF, 0x1004, none, none) := by decide

theorem test_clo_V32 : seen 10 (after (start [(8, 0xFFFF7FFF)] 0x1000 0x1005051)) =
    (.success, 0x10, 0x1004, none, none) := by decide

theorem test_sll_V38 : seen 10 (after (start [(9, 0x80000001)] 0x1000 0x95040)) =
    (.success, 0x2, 0x1004, none, none) := by decide

theorem test_srl_V42 : seen 10 (after (start [(9, 0x80000001)] 0x1000 0x95102)) =
    (.success, 0x8000000, 0x1004, none, none) := by decide

theorem test_rotr_S4 : seen 10 (after (start [(8, 0xDEADBEEF)] 0x1000 0x285242)) =
    (.success, 0x77EF56DF, 0x1004, none, none) := by decide

theorem test_sra_V50 : seen 10 (after (start [(9, 0x80000001)] 0x1000 0x95043)) =
    (.success, 0xC0000000, 0x1004, none, none) := by decide

theorem test_sllv_V56 : seen 10 (after (start [(9, 0xFFFF), (8, 0xFFFFFFFF)] 0x1000 0x1095004)) =
    (.success, 0x80000000, 0x1004, none, none) := by decide

theorem test_srlv_V58 : seen 10 (after (start [(9, 0x80000000), (8, 0x21)] 0x1000 0x1095006)) =
    (.success, 0x40000000, 0x1004, none, none) := by decide

theorem test_rotrv_V59 : seen 10 (after (start [(9, 0x80000001), (8, 0x4)] 0x1000 0x1095046)) =
    (.success, 0x18000000, 0x1004, none, none) := by decide

theorem test_srav_V62 : seen 10 (after (start [(9, 0x80000000), (8, 0x1F)] 0x1000 0x1095007)) =
    (.success, 0xFFFFFFFF, 0x1004, none, none) := by decide

/-! ### SPECIAL: multiply and divide -/

theorem test_mul_V65 : seen 10 (after (start [(8, 0xFFFFFFFF), (9, 0xFFFFFFFF), (10, 0x55555555)] 0x1000 0x1095098)) =
    (.success, 0x1, 0x1004, none, none) := by decide

theorem test_muh_S7 : seen 10 (after (start [(8, 0xFFED9C8D), (9, 0xF2A373)] 0x1000 0x10950D8)) =
    (.success, 0xFFFFEE92, 0x1004, none, none) := by decide

theorem test_mulu_V67 :
    seen 10 (after (start [(8, 0xFFFFFFFF), (9, 0xFFFFFFFF), (10, 0x55555555)] 0x1000 0x1095099)) =
    (.success, 0x1, 0x1004, none, none) := by decide

theorem test_muhu_V68 :
    seen 10 (after (start [(8, 0xFFFFFFFF), (9, 0xFFFFFFFF), (10, 0x55555555)] 0x1000 0x10950D9)) =
    (.success, 0xFFFFFFFE, 0x1004, none, none) := by decide

theorem test_div_V79 : seen 10 (after (start [(8, 0xFFFFFFF9), (9, 0x2), (10, 0x55555555)] 0x1000 0x109509A)) =
    (.success, 0xFFFFFFFD, 0x1004, none, none) := by decide

theorem test_div_V95 : seen 10 (after (start [(8, 0x7), (9, 0x0), (10, 0x55555555)] 0x1000 0x109509A)) =
    (.failure .divideByZero, 0x55555555, 0x1004, none, none) := by decide

theorem test_mod_V80 : seen 10 (after (start [(8, 0xFFFFFFF9), (9, 0x2), (10, 0x55555555)] 0x1000 0x10950DA)) =
    (.success, 0xFFFFFFFF, 0x1004, none, none) := by decide

theorem test_mod_V88 : seen 10 (after (start [(8, 0x80000000), (9, 0xFFFFFFFF), (10, 0x55555555)] 0x1000 0x10950DA)) =
    (.success, 0x0, 0x1004, none, none) := by decide

theorem test_divu_V90 : seen 10 (after (start [(8, 0xFFFFFFFF), (9, 0x2), (10, 0x55555555)] 0x1000 0x109509B)) =
    (.success, 0x7FFFFFFF, 0x1004, none, none) := by decide

theorem test_modu_V93 :
    seen 10 (after (start [(8, 0x80000000), (9, 0xFFFFFFFF), (10, 0x55555555)] 0x1000 0x10950DB)) =
    (.success, 0x80000000, 0x1004, none, none) := by decide

/-! ### SPECIAL: register jumps and traps -/

theorem test_jr_S5 : seen 31 (after (start [(8, 0xBAD)] 0x10000000 0x1000008)) =
    (.success, 0x0, 0x10000004, some 0xBAD, none) := by decide

theorem test_jalr_V110 : seen 31 (after (start [(31, 0x2000)] 0x1000 0x3E0F809)) =
    (.success, 0x1004, 0x1004, some 0x2000, none) := by decide

theorem test_teq_V115 : seen 0 (after (start [(8, 0x5), (9, 0x5)] 0x1000 0x1095574)) =
    (.failure .trap, 0x0, 0x1004, none, some ⟨.trap, 0x1095574⟩) := by decide

theorem test_teq_V113 : seen 0 (after (start [(8, 0x5), (9, 0x6)] 0x1000 0x1090034)) =
    (.success, 0x0, 0x1004, none, none) := by decide

theorem test_tne_V116 : seen 0 (after (start [(8, 0x5), (9, 0x6)] 0x1000 0x1090036)) =
    (.failure .trap, 0x0, 0x1004, none, some ⟨.trap, 0x1090036⟩) := by decide

theorem test_tge_V118 : seen 0 (after (start [(8, 0xFFFFFFFF), (9, 0x1)] 0x1000 0x1090030)) =
    (.success, 0x0, 0x1004, none, none) := by decide

theorem test_tgeu_V120 : seen 0 (after (start [(8, 0xFFFFFFFF), (9, 0x1)] 0x1000 0x1090031)) =
    (.failure .trap, 0x0, 0x1004, none, some ⟨.trap, 0x1090031⟩) := by decide

theorem test_tlt_V122 : seen 0 (after (start [(8, 0xFFFFFFFF), (9, 0x1)] 0x1000 0x1090032)) =
    (.failure .trap, 0x0, 0x1004, none, some ⟨.trap, 0x1090032⟩) := by decide

theorem test_tltu_V124 : seen 0 (after (start [(8, 0xFFFFFFFF), (9, 0x1)] 0x1000 0x1090033)) =
    (.success, 0x0, 0x1004, none, none) := by decide

/-! ### Immediates -/

theorem test_addiu_V129 : seen 9 (after (start [(8, 0x8000)] 0x1000 0x25098000)) =
    (.success, 0x0, 0x1004, none, none) := by decide

theorem test_aui_V133 : seen 9 (after (start [(8, 0x1)] 0x1000 0x3D098000)) =
    (.success, 0x80000001, 0x1004, none, none) := by decide

theorem test_slti_V138 : seen 9 (after (start [(8, 0x80000000)] 0x1000 0x29097FFF)) =
    (.success, 0x1, 0x1004, none, none) := by decide

theorem test_sltiu_V143 : seen 9 (after (start [(8, 0x8000)] 0x1000 0x2D098000)) =
    (.success, 0x1, 0x1004, none, none) := by decide

theorem test_andi_V145 : seen 9 (after (start [(8, 0xFFFFFFFF)] 0x1000 0x31098000)) =
    (.success, 0x8000, 0x1004, none, none) := by decide

theorem test_ori_V146 : seen 9 (after (start [(8, 0x12340000)] 0x1000 0x35098001)) =
    (.success, 0x12348001, 0x1004, none, none) := by decide

theorem test_xori_V147 : seen 9 (after (start [(8, 0xFFFFFFFF)] 0x1000 0x3909FFFF)) =
    (.success, 0xFFFF0000, 0x1004, none, none) := by decide

/-! ### Legacy branches -/

theorem test_beq_V151 : seen 0 (after (start [(8, 0x1), (9, 0x1)] 0x1000 0x11098000)) =
    (.success, 0x0, 0x1004, some 0xFFFE1004, none) := by decide

theorem test_beq_V155 : seen 0 (after ((start [(8, 0x5), (9, 0x5)] 0x1004 0x11090010).delayedBranch 0x3000)) =
    (.success, 0x0, 0x3000, some 0x3040, none) := by decide

theorem test_bne_V153 : seen 0 (after (start [(8, 0x5), (9, 0x6)] 0x1000 0x15090010)) =
    (.success, 0x0, 0x1004, some 0x1044, none) := by decide

theorem test_blez_V177 : seen 31 (after (start [(8, 0x80000000)] 0x1000 0x19000010)) =
    (.success, 0x0, 0x1004, some 0x1044, none) := by decide

theorem test_bgtz_V189 : seen 31 (after (start [(8, 0x1)] 0x1000 0x1D000010)) =
    (.success, 0x0, 0x1004, some 0x1044, none) := by decide

theorem test_bltz_V157 : seen 0 (after (start [(8, 0x80000000)] 0x1000 0x5000008)) =
    (.success, 0x0, 0x1004, some 0x1024, none) := by decide

theorem test_bgez_V160 : seen 0 (after (start [(8, 0x0)] 0x1000 0x501FFFC)) =
    (.success, 0x0, 0x1004, some 0xFF4, none) := by decide

/-! ### Compact branches and jumps -/

theorem test_blezalc_V182 : seen 31 (after (start [(31, 0x0)] 0x1000 0x181F0010)) =
    (.success, 0x1004, 0x1044, none, none) := by decide

theorem test_bgezalc_V184 : seen 31 (after (start [(9, 0x80000000)] 0x1000 0x19290010)) =
    (.success, 0x1004, 0x1004, none, none) := by decide

theorem test_bgtzalc_V193 : seen 31 (after (start [(9, 0x7FFFFFFF)] 0x1000 0x1C090010)) =
    (.success, 0x1004, 0x1044, none, none) := by decide

theorem test_bltzalc_V195 : seen 31 (after (start [(9, 0x80000000)] 0x1000 0x1D290010)) =
    (.success, 0x1004, 0x1044, none, none) := by decide

theorem test_beqzalc_V202 : seen 31 (after (start [(9, 0x5)] 0x1000 0x20090010)) =
    (.success, 0x1004, 0x1004, none, none) := by decide

theorem test_bnezalc_V212 : seen 31 (after (start [(9, 0x5)] 0x1000 0x60090010)) =
    (.success, 0x1004, 0x1044, none, none) := by decide

theorem test_bgeuc_V186 : seen 31 (after (start [(8, 0x1), (9, 0xFFFFFFFF)] 0x1000 0x19090010)) =
    (.success, 0x0, 0x1004, none, none) := by decide

theorem test_bltuc_V197 : seen 31 (after (start [(8, 0x1), (9, 0xFFFFFFFF)] 0x1000 0x1D090010)) =
    (.success, 0x0, 0x1044, none, none) := by decide

theorem test_beqc_V203 : seen 31 (after (start [(8, 0x7), (9, 0x7)] 0x1000 0x21090010)) =
    (.success, 0x0, 0x1044, none, none) := by decide

theorem test_bnec_V214 : seen 31 (after (start [(8, 0x7), (9, 0x8)] 0x1000 0x61090010)) =
    (.success, 0x0, 0x1044, none, none) := by decide

theorem test_bovc_V205 : seen 31 (after (start [(9, 0x7FFFFFFF), (8, 0x1)] 0x1000 0x21280010)) =
    (.success, 0x0, 0x1044, none, none) := by decide

theorem test_bovc_V208 : seen 31 (after (start [(9, 0x80000000), (8, 0x7FFFFFFF)] 0x1000 0x21280010)) =
    (.success, 0x0, 0x1004, none, none) := by decide

theorem test_bnvc_V217 : seen 31 (after (start [(9, 0x7FFFFFFF), (8, 0x1)] 0x1000 0x61280010)) =
    (.success, 0x0, 0x1004, none, none) := by decide

theorem test_blezc_V219 : seen 31 (after (start [(9, 0x0)] 0x1000 0x58090010)) =
    (.success, 0x0, 0x1044, none, none) := by decide

theorem test_bgezc_V222 : seen 31 (after (start [(9, 0xFFFFFFFF)] 0x1000 0x59290010)) =
    (.success, 0x0, 0x1004, none, none) := by decide

theorem test_bgec_V224 : seen 31 (after (start [(8, 0x1), (9, 0xFFFFFFFF)] 0x1000 0x59090010)) =
    (.success, 0x0, 0x1044, none, none) := by decide

theorem test_bgtzc_V228 : seen 31 (after (start [(9, 0x1)] 0x1000 0x5C090010)) =
    (.success, 0x0, 0x1044, none, none) := by decide

theorem test_bltzc_V230 : seen 31 (after (start [(9, 0x80000000)] 0x1000 0x5D290010)) =
    (.success, 0x0, 0x1044, none, none) := by decide

theorem test_bltc_V236 : seen 31 (after ((start [(8, 0x0), (9, 0x1)] 0x1004 0x5D090010).delayedBranch 0x3000)) =
    (.success, 0x0, 0x3040, none, none) := by decide

theorem test_pop26Nop_V226 : seen 31 (after (start [(8, 0x0)] 0x1000 0x59000010)) =
    (.success, 0x0, 0x1004, none, none) := by decide

theorem test_pop27Nop_V235 : seen 31 (after (start [(8, 0xFFFFFFFF)] 0x1000 0x5D000010)) =
    (.success, 0x0, 0x1004, none, none) := by decide

theorem test_jic_V237 : seen 31 (after (start [(9, 0x2004)] 0x1000 0xD809FFFC)) =
    (.success, 0x0, 0x2000, none, none) := by decide

theorem test_jialc_V247 : seen 31 (after (start [(31, 0x2000)] 0x1000 0xF81F0004)) =
    (.success, 0x1004, 0x2004, none, none) := by decide

theorem test_beqzc_V244 : seen 31 (after (start [(8, 0x0)] 0x800000 0xD9100000)) =
    (.success, 0x0, 0x400004, none, none) := by decide

theorem test_bnezc_V251 : seen 31 (after (start [(8, 0x1), (9, 0x0)] 0x1000 0xF9090010)) =
    (.success, 0x0, 0x241044, none, none) := by decide

/-! ### Loads and stores -/

theorem test_lb_V257 :
    seen 9 (after (withWord 0x2000 0x80FF7F01 (start [(8, 0x2000), (9, 0x55555555)] 0x1000 0x81090003))) =
    (.success, 0xFFFFFF80, 0x1004, none, none) := by decide

theorem test_lb_V262 :
    seen 9 (after (withWord 0x2000 0x80FF7F01 (startBig [(8, 0x2000), (9, 0x55555555)] 0x1000 0x81090000))) =
    (.success, 0xFFFFFF80, 0x1004, none, none) := by decide

theorem test_lbu_V258 :
    seen 9 (after (withWord 0x2000 0x80FF7F01 (start [(8, 0x2000), (9, 0x55555555)] 0x1000 0x91090003))) =
    (.success, 0x80, 0x1004, none, none) := by decide

theorem test_lh_V260 :
    seen 9 (after (withWord 0x2000 0x80FF7F01 (start [(8, 0x2000), (9, 0x55555555)] 0x1000 0x85090002))) =
    (.success, 0xFFFF80FF, 0x1004, none, none) := by decide

theorem test_lhu_V261 :
    seen 9 (after (withWord 0x2000 0x80FF7F01 (start [(8, 0x2000), (9, 0x55555555)] 0x1000 0x95090002))) =
    (.success, 0x80FF, 0x1004, none, none) := by decide

theorem test_lhu_V268 :
    seen 9 (after (withWord 0x2000 0x80FF7F01 (start [(8, 0x2000), (9, 0x55555555)] 0x1000 0x95090003))) =
    (.failure .memLoadError, 0x55555555, 0x1004, none, none) := by decide

theorem test_lw_V253 :
    seen 9 (after (withWord 0x2000 0x80FF7F01 (start [(8, 0x2004), (9, 0x55555555)] 0x1000 0x8D09FFFC))) =
    (.success, 0x80FF7F01, 0x1004, none, none) := by decide

theorem test_lw_V269 :
    seen 9 (after (onlyMapped (withWord 0x2000 0x80FF7F01
      (start [(8, 0x8000), (9, 0x55555555)] 0x1000 0x8D090000)) 0x1000 0x2FFF)) =
    (.failure .memLoadError, 0x55555555, 0x1004, none, none) := by decide

theorem test_sb_V277 :
    stored 0x2000 .word (after (withWord 0x2000 0x11111111
      (start [(8, 0x2000), (9, 0xDEADBEEF)] 0x1000 0xA1090001))) =
    (.success, some 0x1111EF11, 0x1004, none, none) := by decide

theorem test_sb_V279 :
    stored 0x2000 .word (after (withWord 0x2000 0x11111111
      (startBig [(8, 0x2000), (9, 0xDEADBEEF)] 0x1000 0xA1090001))) =
    (.success, some 0x11EF1111, 0x1004, none, none) := by decide

theorem test_sh_V276 :
    stored 0x2000 .word (after (withWord 0x2000 0x11111111
      (start [(8, 0x2000), (9, 0xDEADBEEF)] 0x1000 0xA5090002))) =
    (.success, some 0xBEEF1111, 0x1004, none, none) := by decide

theorem test_sw_V275 :
    stored 0x2000 .word (after (withWord 0x2000 0x11111111
      (start [(8, 0x2000), (9, 0xDEADBEEF)] 0x1000 0xAD090000))) =
    (.success, some 0xDEADBEEF, 0x1004, none, none) := by decide

theorem test_sw_V282 :
    seen 0 (after (onlyMapped (withWord 0x2000 0x11111111
      (start [(8, 0x8000), (9, 0xDEADBEEF)] 0x1000 0xAD090000)) 0x1000 0x2FFF)) =
    (.failure .memStoreError, 0x0, 0x1004, none, none) := by decide

/-! ### J-type -/

theorem test_j_V167 : seen 31 (after (start [] 0xFFFFFFC 0xBFFFFFF)) =
    (.success, 0x0, 0x10000000, some 0x1FFFFFFC, none) := by decide

theorem test_jal_V169 : seen 31 (after ((start [] 0x1004 0xC000040).delayedBranch 0x30003000)) =
    (.success, 0x30003000, 0x30003000, some 0x30000100, none) := by decide

theorem test_bc_V172 : seen 31 (after (start [] 0x10000000 0xCA000000)) =
    (.success, 0x0, 0x8000004, none, none) := by decide

theorem test_balc_V175 : seen 31 (after ((start [] 0x1004 0xE8000004).delayedBranch 0x3000)) =
    (.success, 0x3000, 0x3010, none, none) := by decide

/-! ### SPECIAL3 -/

theorem test_bitswap_V290 : seen 10 (after (start [(8, 0x80C0E0F0)] 0x1000 0x7C085020)) =
    (.success, 0x103070F, 0x1004, none, none) := by decide

theorem test_wsbh_V293 : seen 10 (after (start [(8, 0x12345678)] 0x1000 0x7C0850A0)) =
    (.success, 0x34127856, 0x1004, none, none) := by decide

theorem test_align_V295 : seen 10 (after (start [(8, 0x11223344), (9, 0xAABBCCDD)] 0x1000 0x7D095220)) =
    (.success, 0xAABBCCDD, 0x1004, none, none) := by decide

theorem test_align_V298 : seen 10 (after (start [(8, 0x11223344), (9, 0xAABBCCDD)] 0x1000 0x7D0952E0)) =
    (.success, 0xDD112233, 0x1004, none, none) := by decide

theorem test_seb_V299 : seen 10 (after (start [(8, 0x12345680)] 0x1000 0x7C085420)) =
    (.success, 0xFFFFFF80, 0x1004, none, none) := by decide

theorem test_seh_V301 : seen 10 (after (start [(8, 0x12348678)] 0x1000 0x7C085620)) =
    (.success, 0xFFFF8678, 0x1004, none, none) := by decide

theorem test_ext_V307 : seen 10 (after (start [(8, 0x12345678), (10, 0x55555555)] 0x1000 0x7D0A5A00)) =
    (.success, 0x456, 0x1004, none, none) := by decide

theorem test_ext_V312 : seen 10 (after (start [(8, 0x12345678), (10, 0x55555555)] 0x1000 0x7D0AC200)) =
    (.failure .bitfieldRange, 0x55555555, 0x1004, none, none) := by decide

theorem test_ins_V318 : seen 10 (after (start [(10, 0x0), (8, 0xFFFFFFFF)] 0x1000 0x7D0A3904)) =
    (.success, 0xF0, 0x1004, none, none) := by decide

theorem test_ins_V321 : seen 10 (after (start [(10, 0x12345678), (8, 0xFF)] 0x1000 0x7D0A1904)) =
    (.failure .bitfieldRange, 0x12345678, 0x1004, none, none) := by decide

/-! ### PC-relative and floating point -/

theorem test_addiupc_V328 : seen 8 (after ((start [(8, 0x55)] 0x1004 0xED000010).delayedBranch 0x3000)) =
    (.success, 0x1044, 0x3000, none, none) := by decide

theorem test_lwpc_V331 : seen 8 (after (withWord 0xFFC 0xBADF00D (start [(8, 0x55)] 0x1000 0xED0FFFFF))) =
    (.success, 0xBADF00D, 0x1004, none, none) := by decide

theorem test_auipc_V336 : seen 8 (after (start [(8, 0x55)] 0x1FFFC 0xED1E0001)) =
    (.success, 0x2FFFC, 0x20000, none, none) := by decide

theorem test_aluipc_V339 : seen 8 (after (start [(8, 0x55)] 0x11000 0xED1FFFFF)) =
    (.success, 0x0, 0x11004, none, none) := by decide

theorem test_cop1_V346 : seen 8 (after (start [(8, 0x55)] 0x1000 0x45000004)) =
    (.failure .fpuUnimplemented, 0x55, 0x1004, none, none) := by decide

/-! ### Words that select no instruction -/

theorem test_reject_syscall_V36 : seen 10 (after (start [] 0x1000 0xC)) =
    (.failure .unrecognisedOp, 0x0, 0x1004, none, none) := by decide

theorem test_reject_sop32_V101 : seen 10 (after (start [(8, 0x3), (9, 0x4), (10, 0x55555555)] 0x1000 0x109501A)) =
    (.failure .unrecognisedOp, 0x55555555, 0x1004, none, none) := by decide

theorem test_reject_sop32_zero_divisor_V102 :
    seen 10 (after (start [(8, 0x3), (9, 0x0), (10, 0x55555555)] 0x1000 0x109501A)) =
    (.failure .divideByZero, 0x55555555, 0x1004, none, none) := by decide

theorem test_reject_special3_minor_V305 : seen 10 (after (start [(10, 0x55)] 0x1000 0x7C08503B)) =
    (.failure .decodeError, 0x55, 0x1004, none, none) := by decide

theorem test_reject_bshfl_V303 : seen 10 (after (start [(8, 0x12345678), (10, 0x55)] 0x1000 0x7C085060)) =
    (.failure .unrecognisedOp, 0x55, 0x1004, none, none) := by decide

theorem test_reject_pcrel_V341 : seen 8 (after (start [(8, 0x55)] 0x1000 0xED180000)) =
    (.failure .decodeError, 0x55, 0x1004, none, none) := by decide

theorem test_reject_regimm_V163 : seen 31 (after (start [(8, 0x0)] 0x1000 0x5110008)) =
    (.failure .unrecognisedOp, 0x0, 0x1004, none, none) := by decide

theorem test_reject_op_V349 : seen 8 (after (start [(8, 0x55)] 0x1000 0xFC000000)) =
    (.failure .unrecognisedOp, 0x55, 0x1004, none, none) := by decide

/-! ## Witnesses: for every statement with hypotheses, inputs that meet them -/

theorem witness_DecodeInvertsEncode :
    Instr.wellFormed (.beqc 30 31 0xFFFF#16) = true ∧ Instr.wellFormed (.bovc 0 0 0) = true ∧
    Instr.wellFormed (.ext 1 2 31 31) = true ∧ decode 0x23DFFFFF#32 = .ok (.beqc 30 31 0xFFFF#16) := by
  decide

/-- The row of ADD selects a word; no row selects 0x0000000C. -/
theorem witness_EveryWordSelectsOneRowOrIsIllegal :
    (∃ r ∈ opcodeTable, r.selects 0x01095020#32 = true ∧ r.mnemonic = "ADD") ∧
    decode 0x01095020#32 = .ok (.add 10 8 9) ∧ ∀ r ∈ opcodeTable, r.selects 0x0000000C#32 = false := by
  decide

/-- Two words of JR that differ in every ignored field. -/
theorem witness_IgnoredFieldsHaveNoEffect :
    ∃ r ∈ opcodeTable, r.mnemonic = "JR" ∧ r.selects 0x01000008#32 = true ∧ r.selects 0x011FFFC8#32 = true ∧
      0x01000008#32 &&& r.operands = 0x011FFFC8#32 &&& r.operands := by
  decide

/-- Register 8 is 0, so that `0(r8)` is address 0. -/
def base : State := start [(9, 0x12345678)] 0x1000 0

/-- Register 8 is the last word's address, register 9 a value, and a word of ADDU stands at 0x1000. -/
def wide : State := start [(8, 0xFFFFFFFC), (9, 0x89ABCDEF)] 0x1000 0x01095021

/-- The same with nothing but the word at 0x1000 mapped. -/
def narrow : State := onlyMapped wide 0x1000 0x1003

theorem witness_StoreThenReadReturnsTheValue :
    wide.mem.wf ∧ (wide.memWrite 0xFFFFFFFF .byte 0x89ABCDEF).isSome = true ∧
    (wide.memWrite 0xFFFFFFFE .half 0x89ABCDEF).isSome = true ∧
    (wide.memWrite 0xFFFFFFFC .word 0x89ABCDEF).isSome = true ∧
    (wide.memWrite 0 .word 0x89ABCDEF).isSome = true := by
  decide

/-- All premises at once, for every later state that differs from the stored one in registers alone. -/
theorem witness_StoreThenReadReturnsTheValue_later :
    ∃ t u, wide.memWrite 0xFFFFFFFC .word 0x89ABCDEF = some t ∧ u = t.setReg 9 0 ∧ u.config = t.config ∧
      ∀ b : Nat, 0xFFFFFFFC ≤ b → b < 0xFFFFFFFC + AccessSize.word.bytes → u.mem.readByte b = t.mem.readByte b :=
  ⟨_, _, rfl, rfl, rfl, fun _ _ _ => rfl⟩

theorem witness_NarrowReadsOfAStoredWord :
    wide.mem.wf ∧ (wide.memWrite 0xFFFFFFFC .word 0x89ABCDEF).isSome = true ∧
    (startBig [] 0x1000 0).mem.wf ∧ ((startBig [] 0x1000 0).memWrite 0xFFFFFFFC .word 0x89ABCDEF).isSome = true := by
  decide

/-- Both reasons of an access error, and an accepted write. -/
theorem witness_AccessErrorsAndStoreFrame :
    wide.memRead 0xFFFFFFFE .word = none ∧ narrow.memRead 0x1002 .word = none ∧ narrow.memRead 0x1004 .byte = none ∧
    narrow.memWrite 0xFFC .word 1 = none ∧ narrow.mem.wf ∧ (narrow.memWrite 0x1000 .word 1).isSome = true := by
  decide

/-- At the ends of the address space and under both byte orders. -/
theorem witness_StepRunsTheDecodedInstruction :
    ((wide.pc).toNat % 4 = 0 ∧ MappedAt wide wide.pc 4 ∧ ReadsAs wide wide.pc.toNat 4 0x01095021 ∧
      decode 0x01095021#32 = .ok (.addu 10 8 9)) ∧
    ReadsAs (startBig [] 0xFFFFFFFC 0x01095021) 0xFFFFFFFC 4 0x01095021 ∧
    MappedAt (startBig [] 0xFFFFFFFC 0x01095021) 0xFFFFFFFC 4 := by
  unfold MappedAt ReadsAs
  decide

theorem witness_FetchErrorChangesNothing :
    (wide.jump 0x1001).pc.toNat % 4 ≠ 0 ∧ ¬MappedAt (narrow.jump 0x1004) 0x1004 4 ∧
      ¬MappedAt (narrow.jump 0xFFC) 0xFFC 4 := by
  unfold MappedAt
  decide

/-- An unknown `func`, a SPECIAL3 `minor` of no class, and a SOP32 word of no `shamt` with and without a divisor. -/
theorem witness_IllegalWordsFailTheStep :
    ((start [] 0x1000 0x0000000C).fetch = some 0x0000000C#32 ∧ ∀ r ∈ opcodeTable, r.selects 0x0000000C#32 = false) ∧
    ((start [] 0x1000 0x7C08503B).fetch = some 0x7C08503B#32 ∧ ∀ r ∈ opcodeTable, r.selects 0x7C08503B#32 = false) ∧
    ((start [(9, 0)] 0x1000 0x0109501A).fetch = some 0x0109501A#32 ∧
      (∀ r ∈ opcodeTable, r.selects 0x0109501A#32 = false) ∧ funcField 0x0109501A#32 = 26#6 ∧
      rtField 0x0109501A#32 = 9 ∧ (start [(9, 0)] 0x1000 0x0109501A).reg 9 = 0#32 ∧
      (start [(9, 1)] 0x1000 0x0109501A).reg 9 ≠ 0#32) := by
  decide

/-- A failed fetch, a trap, and a failure of another kind. -/
theorem witness_FailingStepChangesOnlyPcDbtAndExc :
    (∃ t, step (wide.jump 0x1001) = .next t ∧ t.answer = .failure .fetchError) ∧
    (∃ t, step (start [] 0x1000 0x00000034) = .next t ∧ t.answer = .failure .trap) ∧
    ∃ t, step (start [] 0x1000 0x44080000) = .next t ∧ t.answer = .failure .fpuUnimplemented :=
  ⟨⟨after (wide.jump 0x1001), rfl, by decide⟩, ⟨after (start [] 0x1000 0x00000034), rfl, by decide⟩,
    ⟨after (start [] 0x1000 0x44080000), rfl, by decide⟩⟩

theorem witness_OnlyTrapsRecordAnException :
    ∃ t, step (start [] 0x1000 0x00000034) = .next t ∧ t.exc ≠ (start [] 0x1000 0x00000034).exc ∧
      t.answer = .failure .trap :=
  ⟨after (start [] 0x1000 0x00000034), rfl, by decide⟩

theorem witness_StepsWriteOnlyTheDestination : ∃ t, step wide = .next t ∧ t.reg 10 ≠ wide.reg 10 :=
  ⟨after wide, rfl, by decide⟩

/-- A BC over one instruction. -/
theorem witness_OnlyCompactTransfersWritePc :
    ∃ t, (start [] 0x1000 0xC8000001).fetch = some 0xC8000001#32 ∧ step (start [] 0x1000 0xC8000001) = .next t ∧
      t.pc ≠ (start [] 0x1000 0xC8000001).updatedPc :=
  ⟨after (start [] 0x1000 0xC8000001), by decide, rfl, by decide⟩

/-- A J. -/
theorem witness_OnlyLegacyTransfersArmTheSlot :
    ∃ t, (start [] 0x1000 0x08000000).fetch = some 0x08000000#32 ∧ step (start [] 0x1000 0x08000000) = .next t ∧
      t.dbt ≠ none :=
  ⟨after (start [] 0x1000 0x08000000), by decide, rfl, by decide⟩

/-- `SB r9, 3(r8)`, to the last byte of all. -/
theorem witness_OnlyStoresChangeMemory :
    ∃ t, (start [(8, 0xFFFFFFFC), (9, 1)] 0x1000 0xA1090003).mem.wf ∧
      step (start [(8, 0xFFFFFFFC), (9, 1)] 0x1000 0xA1090003) = .next t ∧
      t.mem.readByte 0xFFFFFFFF ≠ (start [(8, 0xFFFFFFFC), (9, 1)] 0x1000 0xA1090003).mem.readByte 0xFFFFFFFF :=
  ⟨after (start [(8, 0xFFFFFFFC), (9, 1)] 0x1000 0xA1090003), by decide, rfl, by decide⟩

theorem witness_ExceptionRecordIsNeverRead :
    (∃ t, step (start [] 0x1000 0x00000034) = .next t ∧ t.answer = .failure .trap) ∧
    ∃ t, step wide = .next t ∧ t.answer ≠ .failure .trap :=
  ⟨⟨after (start [] 0x1000 0x00000034), rfl, by decide⟩, ⟨after wide, rfl, by decide⟩⟩

theorem witness_StepKeepsMemoryCanonicalAndParameters :
    (∃ t, step wide = .next t) ∧ wide.Inv ∧
    (∃ t, step (start [(8, 0xFFFFFFFC), (9, 1)] 0x1000 0xA1090003) = .next t) ∧
    (start [(8, 0xFFFFFFFC), (9, 1)] 0x1000 0xA1090003).Inv :=
  ⟨⟨after wide, rfl⟩, by unfold State.Inv; decide,
    ⟨after (start [(8, 0xFFFFFFFC), (9, 1)] 0x1000 0xA1090003), rfl⟩, by unfold State.Inv; decide⟩

/-- An aligned `pc`, and states whose `pc` is misaligned or unmapped. -/
theorem witness_PlacedWordIsFetched :
    (wide.mem.wf ∧ wide.pc.toNat % 4 = 0) ∧ (wide.jump 0x1003).mem.wf ∧ (narrow.jump 0xFFFFFFFC).mem.wf := by
  decide

theorem witness_RegisterZeroAndRegisterWrites : (1 : Reg) ≠ 0 ∧ (31 : Reg) ≠ 0 ∧ (0 : Reg) ≠ 31 ∧
    (30 : Reg) ≠ 31 := by
  decide

/-- The ends of both ranges. -/
theorem witness_HostRegisterViewsRoundTrip :
    (31 : Reg) ≠ 0 ∧ (-2 ^ 31 : Int) ≤ -2147483648 ∧ (2147483647 : Int) < 2 ^ 31 ∧ (0xFFFFFFFF : Nat) < 2 ^ 32 ∧
    ((0xFFFFFFFF : Nat) : Int) % 2 ^ 32 = -1 % 2 ^ 32 ∧ ((0 : Nat) : Int) % 2 ^ 32 = 4294967296 % 2 ^ 32 := by
  decide

theorem witness_PendingBranchCommitsOnce : wide.dbt = none ∧ (wide.jump 0xFFFFFFFC).dbt = none := by
  decide

/-- A taken BEQ to itself at 0x1000, with the word `w` in its delay slot. -/
def slot (w : Word) : State := withWord 0x1004 w (start [] 0x1000 0x1000FFFF)

/-- An ADDU and a COP1 word in the delay slot. -/
theorem witness_DelaySlotThenTarget :
    (∃ t u, step (slot 0x01095021) = .next t ∧ t.dbt = some 0x1000#32 ∧ t.fetch = some 0x01095021#32 ∧
      step t = .next u ∧ ∀ i, decode 0x01095021#32 = .ok i → isCompactTransfer i = false) ∧
    ∃ t u, step (slot 0x44080000) = .next t ∧ t.dbt = some 0x1000#32 ∧ t.fetch = some 0x44080000#32 ∧
      step t = .next u ∧ ∀ i, decode 0x44080000#32 = .ok i → isCompactTransfer i = false :=
  ⟨⟨after (slot 0x01095021), _, rfl, by decide, by decide, rfl, fun _ e => by cases e; rfl⟩,
    ⟨after (slot 0x44080000), _, rfl, by decide, by decide, rfl, fun _ e => by cases e; rfl⟩⟩

theorem witness_AddAndSubtractWrap :
    opField 0x01095020#32 = 0#6 ∧ funcField 0x01095020#32 = 32#6 ∧
    opField 0x01095021#32 = 0#6 ∧ funcField 0x01095021#32 = 33#6 ∧
    opField 0x01095022#32 = 0#6 ∧ funcField 0x01095022#32 = 34#6 ∧
    opField 0x01095023#32 = 0#6 ∧ funcField 0x01095023#32 = 35#6 := by
  decide

theorem witness_BitwiseLogic :
    opField 0x01095024#32 = 0#6 ∧ funcField 0x01095024#32 = 36#6 ∧
    opField 0x01095025#32 = 0#6 ∧ funcField 0x01095025#32 = 37#6 ∧
    opField 0x01095026#32 = 0#6 ∧ funcField 0x01095026#32 = 38#6 ∧
    opField 0x01095027#32 = 0#6 ∧ funcField 0x01095027#32 = 39#6 := by
  decide

theorem witness_LogicalShifts :
    opField 0x00095040#32 = 0#6 ∧ funcField 0x00095040#32 = 0#6 ∧
    opField 0x01095004#32 = 0#6 ∧ funcField 0x01095004#32 = 4#6 ∧
    opField 0x00095102#32 = 0#6 ∧ funcField 0x00095102#32 = 2#6 ∧ (0x00095102#32).getLsbD 21 = false ∧
    opField 0x01095006#32 = 0#6 ∧ funcField 0x01095006#32 = 6#6 ∧ (0x01095006#32).getLsbD 6 = false := by
  decide

theorem witness_ArithmeticShifts :
    opField 0x000957C3#32 = 0#6 ∧ funcField 0x000957C3#32 = 3#6 ∧
    opField 0x01095007#32 = 0#6 ∧ funcField 0x01095007#32 = 7#6 := by
  decide

theorem witness_Rotates :
    opField 0x00285242#32 = 0#6 ∧ funcField 0x00285242#32 = 2#6 ∧ (0x00285242#32).getLsbD 21 = true ∧
    opField 0x01095046#32 = 0#6 ∧ funcField 0x01095046#32 = 6#6 ∧ (0x01095046#32).getLsbD 6 = true := by
  decide

theorem witness_CompareAndSelect :
    opField 0x0109502A#32 = 0#6 ∧ funcField 0x0109502A#32 = 42#6 ∧
    opField 0x0109502B#32 = 0#6 ∧ funcField 0x0109502B#32 = 43#6 ∧
    opField 0x01095035#32 = 0#6 ∧ funcField 0x01095035#32 = 53#6 ∧
    opField 0x01095037#32 = 0#6 ∧ funcField 0x01095037#32 = 55#6 := by
  decide

theorem witness_CountLeadingBits :
    opField 0x01005050#32 = 0#6 ∧ funcField 0x01005050#32 = 16#6 ∧
    opField 0x01005051#32 = 0#6 ∧ funcField 0x01005051#32 = 17#6 := by
  decide

theorem witness_MultiplyLowAndHigh :
    opField 0x01095098#32 = 0#6 ∧ funcField 0x01095098#32 = 24#6 ∧ bfuncField 0x01095098#32 = 2#5 ∧
    opField 0x010950D8#32 = 0#6 ∧ funcField 0x010950D8#32 = 24#6 ∧ bfuncField 0x010950D8#32 = 3#5 ∧
    opField 0x01095099#32 = 0#6 ∧ funcField 0x01095099#32 = 25#6 ∧ bfuncField 0x01095099#32 = 2#5 ∧
    opField 0x010950D9#32 = 0#6 ∧ funcField 0x010950D9#32 = 25#6 ∧ bfuncField 0x010950D9#32 = 3#5 := by
  decide

/-- A zero divisor, the two neighbours of the overflowing division, and that division. -/
theorem witness_SignedDivision :
    opField 0x0109509A#32 = 0#6 ∧ funcField 0x0109509A#32 = 26#6 ∧ bfuncField 0x0109509A#32 = 2#5 ∧
    opField 0x010950DA#32 = 0#6 ∧ funcField 0x010950DA#32 = 26#6 ∧ bfuncField 0x010950DA#32 = 3#5 ∧
    State.reg (start [(8, 5)] 0x1000 0) 9 = 0#32 ∧
    (State.reg (start [(8, 0x80000000), (9, 1)] 0x1000 0) 9 ≠ 0#32 ∧
      ¬((State.reg (start [(8, 0x80000000), (9, 1)] 0x1000 0) 8).toInt = -2 ^ 31 ∧
        (State.reg (start [(8, 0x80000000), (9, 1)] 0x1000 0) 9).toInt = -1)) ∧
    (State.reg (start [(8, 0x7FFFFFFF), (9, 0xFFFFFFFF)] 0x1000 0) 9 ≠ 0#32 ∧
      ¬((State.reg (start [(8, 0x7FFFFFFF), (9, 0xFFFFFFFF)] 0x1000 0) 8).toInt = -2 ^ 31 ∧
        (State.reg (start [(8, 0x7FFFFFFF), (9, 0xFFFFFFFF)] 0x1000 0) 9).toInt = -1)) ∧
    (State.reg (start [(8, 0x80000000), (9, 0xFFFFFFFF)] 0x1000 0) 8).toInt = -2 ^ 31 ∧
      (State.reg (start [(8, 0x80000000), (9, 0xFFFFFFFF)] 0x1000 0) 9).toInt = -1 := by
  decide

theorem witness_UnsignedDivision :
    opField 0x0109509B#32 = 0#6 ∧ funcField 0x0109509B#32 = 27#6 ∧ bfuncField 0x0109509B#32 = 2#5 ∧
    opField 0x010950DB#32 = 0#6 ∧ funcField 0x010950DB#32 = 27#6 ∧ bfuncField 0x010950DB#32 = 3#5 ∧
    State.reg (start [(8, 5)] 0x1000 0) 9 = 0#32 ∧
    State.reg (start [(8, 5), (9, 1)] 0x1000 0) 9 ≠ 0#32 ∧
    State.reg (start [(8, 5), (9, 0xFFFFFFFF)] 0x1000 0) 9 ≠ 0#32 := by
  decide

theorem witness_RegisterJumps :
    opField 0x01000008#32 = 0#6 ∧ funcField 0x01000008#32 = 8#6 ∧
    opField 0x0100F809#32 = 0#6 ∧ funcField 0x0100F809#32 = 9#6 := by
  decide

theorem witness_ConditionalTraps :
    opField 0x01095574#32 = 0#6 ∧ funcField 0x01095574#32 = 52#6 ∧
    opField 0x0109FFF6#32 = 0#6 ∧ funcField 0x0109FFF6#32 = 54#6 ∧
    opField 0x01090030#32 = 0#6 ∧ funcField 0x01090030#32 = 48#6 ∧
    opField 0x01090031#32 = 0#6 ∧ funcField 0x01090031#32 = 49#6 ∧
    opField 0x01090032#32 = 0#6 ∧ funcField 0x01090032#32 = 50#6 ∧
    opField 0x01090033#32 = 0#6 ∧ funcField 0x01090033#32 = 51#6 := by
  decide

/-- Register 8 holds -1, registers 9 and 10 hold 1. -/
def compared : State := start [(8, 0xFFFFFFFF), (9, 1), (10, 1)] 0x1000 0

/-- Both outcomes of every condition. -/
theorem witness_ConditionalTraps_conditions :
    (compared.reg 9).toNat = (compared.reg 10).toNat ∧ (compared.reg 8).toNat ≠ (compared.reg 9).toNat ∧
    (compared.reg 9).toInt ≥ (compared.reg 10).toInt ∧ (compared.reg 8).toInt < (compared.reg 9).toInt ∧
    (compared.reg 8).toNat ≥ (compared.reg 9).toNat ∧ (compared.reg 9).toNat < (compared.reg 8).toNat := by
  decide

theorem witness_ImmediateArithmeticAndLogic :
    opField 0x25098000#32 = 9#6 ∧
    opField 0x3109FFFF#32 = 12#6 ∧
    opField 0x3509FFFF#32 = 13#6 ∧
    opField 0x3909FFFF#32 = 14#6 := by
  decide

theorem witness_AddUpperImmediate :
    opField 0x3D098000#32 = 15#6 ∧
    opField 0x3C1FFFFF#32 = 15#6 := by
  decide

theorem witness_ImmediateCompares :
    opField 0x29098000#32 = 10#6 ∧
    opField 0x2D097FFF#32 = 11#6 := by
  decide

theorem witness_EqualityBranches :
    opField 0x11098000#32 = 4#6 ∧
    opField 0x15097FFF#32 = 5#6 := by
  decide

theorem witness_SignBranches :
    opField 0x1900FFFF#32 = 6#6 ∧ rtField 0x1900FFFF#32 = 0 ∧
    opField 0x1D00FFFF#32 = 7#6 ∧ rtField 0x1D00FFFF#32 = 0 ∧
    opField 0x0500FFFF#32 = 1#6 ∧ subopField 0x0500FFFF#32 = 0#5 ∧
    opField 0x0501FFFF#32 = 1#6 ∧ subopField 0x0501FFFF#32 = 1#5 := by
  decide

theorem witness_LinkingCompactBranches :
    opField 0x181FFFFF#32 = 6#6 ∧ rtField 0x181FFFFF#32 ≠ 0 ∧ rsField 0x181FFFFF#32 = 0 ∧
    opField 0x1BFFFFFF#32 = 6#6 ∧ rtField 0x1BFFFFFF#32 ≠ 0 ∧ rsField 0x1BFFFFFF#32 = rtField 0x1BFFFFFF#32 ∧
    opField 0x1C01FFFF#32 = 7#6 ∧ rtField 0x1C01FFFF#32 ≠ 0 ∧ rsField 0x1C01FFFF#32 = 0 ∧
    opField 0x1C21FFFF#32 = 7#6 ∧ rtField 0x1C21FFFF#32 ≠ 0 ∧ rsField 0x1C21FFFF#32 = rtField 0x1C21FFFF#32 ∧
    opField 0x201FFFFF#32 = 8#6 ∧ rtField 0x201FFFFF#32 ≠ 0 ∧ rsField 0x201FFFFF#32 = 0 ∧
    opField 0x601FFFFF#32 = 24#6 ∧ rtField 0x601FFFFF#32 ≠ 0 ∧ rsField 0x601FFFFF#32 = 0 := by
  decide

theorem witness_TwoRegisterCompactBranches :
    opField 0x1BE1FFFF#32 = 6#6 ∧ rsField 0x1BE1FFFF#32 ≠ 0 ∧ rtField 0x1BE1FFFF#32 ≠ 0 ∧
      rsField 0x1BE1FFFF#32 ≠ rtField 0x1BE1FFFF#32 ∧
    opField 0x1FE1FFFF#32 = 7#6 ∧ rsField 0x1FE1FFFF#32 ≠ 0 ∧ rtField 0x1FE1FFFF#32 ≠ 0 ∧
      rsField 0x1FE1FFFF#32 ≠ rtField 0x1FE1FFFF#32 ∧
    opField 0x5BE1FFFF#32 = 22#6 ∧ rsField 0x5BE1FFFF#32 ≠ 0 ∧ rtField 0x5BE1FFFF#32 ≠ 0 ∧
      rsField 0x5BE1FFFF#32 ≠ rtField 0x5BE1FFFF#32 ∧
    opField 0x5FE1FFFF#32 = 23#6 ∧ rsField 0x5FE1FFFF#32 ≠ 0 ∧ rtField 0x5FE1FFFF#32 ≠ 0 ∧
      rsField 0x5FE1FFFF#32 ≠ rtField 0x5FE1FFFF#32 ∧
    opField 0x2022FFFF#32 = 8#6 ∧ rsField 0x2022FFFF#32 ≠ 0 ∧ rtField 0x2022FFFF#32 ≠ 0 ∧
      rsField 0x2022FFFF#32 < rtField 0x2022FFFF#32 ∧
    opField 0x63DFFFFF#32 = 24#6 ∧ rsField 0x63DFFFFF#32 ≠ 0 ∧ rtField 0x63DFFFFF#32 ≠ 0 ∧
      rsField 0x63DFFFFF#32 < rtField 0x63DFFFFF#32 := by
  decide

theorem witness_OneRegisterCompactBranchesAndNoOps :
    opField 0x581FFFFF#32 = 22#6 ∧ rtField 0x581FFFFF#32 ≠ 0 ∧ rsField 0x581FFFFF#32 = 0 ∧
    opField 0x5821FFFF#32 = 22#6 ∧ rtField 0x5821FFFF#32 ≠ 0 ∧ rsField 0x5821FFFF#32 = rtField 0x5821FFFF#32 ∧
    opField 0x5C1FFFFF#32 = 23#6 ∧ rtField 0x5C1FFFFF#32 ≠ 0 ∧ rsField 0x5C1FFFFF#32 = 0 ∧
    opField 0x5C21FFFF#32 = 23#6 ∧ rtField 0x5C21FFFF#32 ≠ 0 ∧ rsField 0x5C21FFFF#32 = rtField 0x5C21FFFF#32 ∧
    opField 0x5800FFFF#32 = 22#6 ∧ rtField 0x5800FFFF#32 = 0 ∧
    opField 0x5FE0FFFF#32 = 23#6 ∧ rtField 0x5FE0FFFF#32 = 0 := by
  decide

theorem witness_OverflowBranches :
    opField 0x2000FFFF#32 = 8#6 ∧ rtField 0x2000FFFF#32 ≤ rsField 0x2000FFFF#32 ∧
    opField 0x63FFFFFF#32 = 24#6 ∧ rtField 0x63FFFFFF#32 ≤ rsField 0x63FFFFFF#32 := by
  decide

theorem witness_CompactJumpsAndZeroBranches :
    opField 0xD81FFFFF#32 = 54#6 ∧ rsField 0xD81FFFFF#32 = 0 ∧
    opField 0xF81FFFFF#32 = 62#6 ∧ rsField 0xF81FFFFF#32 = 0 ∧
    opField 0xD83FFFFF#32 = 54#6 ∧ rsField 0xD83FFFFF#32 ≠ 0 ∧
    opField 0xFBF00000#32 = 62#6 ∧ rsField 0xFBF00000#32 ≠ 0 := by
  decide

theorem witness_JumpsAndLongBranches :
    opField 0x0BFFFFFF#32 = 2#6 ∧
    opField 0x0C000000#32 = 3#6 ∧
    opField 0xCA000000#32 = 50#6 ∧
    opField 0xE9FFFFFF#32 = 58#6 := by
  decide

theorem witness_ByteLoads :
    opField 0x81090000#32 = 32#6 ∧
    opField 0x91090000#32 = 36#6 := by
  decide

/-- The first and the last address of every size, at a memory of all addresses; an absent first or last byte. -/
theorem witness_ByteLoads_addresses :
    effectiveAddress (base.reg 8) 0 = 0#32 ∧
    MappedAt base 0 1 ∧ MappedAt base 0xFFFFFFFF 1 ∧
    ¬MappedAt (onlyMapped base 1 0x1003) 0 1 := by
  unfold MappedAt
  decide

theorem witness_HalfAndWordLoads :
    opField 0x85090000#32 = 33#6 ∧
    opField 0x95090000#32 = 37#6 ∧
    opField 0x8D090000#32 = 35#6 := by
  decide

/-- The first and the last address of every size, at a memory of all addresses; an absent first or last byte. -/
theorem witness_HalfAndWordLoads_addresses :
    effectiveAddress (base.reg 8) 0 = 0#32 ∧
    (0xFFFFFFFE#32).toNat % 2 = 0 ∧ MappedAt base 0 2 ∧ MappedAt base 0xFFFFFFFE 2 ∧
    (0xFFFFFFFC#32).toNat % 4 = 0 ∧ MappedAt base 0 4 ∧ MappedAt base 0xFFFFFFFC 4 ∧
    ¬MappedAt (onlyMapped base 1 0x1003) 0 2 ∧ ¬MappedAt (onlyMapped base 0 0) 0 2 ∧
    (1#32).toNat % 2 ≠ 0 ∧
    ¬MappedAt (onlyMapped base 1 0x1003) 0 4 ∧ ¬MappedAt (onlyMapped base 0 2) 0 4 ∧
    (1#32).toNat % 4 ≠ 0 := by
  unfold MappedAt
  decide

theorem witness_Stores :
    opField 0xA1090000#32 = 40#6 ∧
    opField 0xA5090000#32 = 41#6 ∧
    opField 0xAD090000#32 = 43#6 := by
  decide

/-- The first and the last address of every size, at a memory of all addresses; an absent first or last byte. -/
theorem witness_Stores_addresses :
    effectiveAddress (base.reg 8) 0 = 0#32 ∧
    base.mem.wf ∧
    MappedAt base 0 1 ∧ MappedAt base 0xFFFFFFFF 1 ∧
    (0xFFFFFFFE#32).toNat % 2 = 0 ∧ MappedAt base 0 2 ∧ MappedAt base 0xFFFFFFFE 2 ∧
    (0xFFFFFFFC#32).toNat % 4 = 0 ∧ MappedAt base 0 4 ∧ MappedAt base 0xFFFFFFFC 4 ∧
    ¬MappedAt (onlyMapped base 1 0x1003) 0 1 ∧
    ¬MappedAt (onlyMapped base 1 0x1003) 0 2 ∧ ¬MappedAt (onlyMapped base 0 0) 0 2 ∧
    (1#32).toNat % 2 ≠ 0 ∧
    ¬MappedAt (onlyMapped base 1 0x1003) 0 4 ∧ ¬MappedAt (onlyMapped base 0 2) 0 4 ∧
    (1#32).toNat % 4 ≠ 0 := by
  unfold MappedAt
  decide

theorem witness_ByteShufflesAndSignExtensions :
    opField 0x7C095020#32 = 31#6 ∧ funcField 0x7C095020#32 = 32#6 ∧ bfuncField 0x7C095020#32 = 0#5 ∧
    opField 0x7C0950A0#32 = 31#6 ∧ funcField 0x7C0950A0#32 = 32#6 ∧ bfuncField 0x7C0950A0#32 = 2#5 ∧
    opField 0x7C095420#32 = 31#6 ∧ funcField 0x7C095420#32 = 32#6 ∧ bfuncField 0x7C095420#32 = 16#5 ∧
    opField 0x7C095620#32 = 31#6 ∧ funcField 0x7C095620#32 = 32#6 ∧ bfuncField 0x7C095620#32 = 24#5 := by
  decide

theorem witness_AlignConcatenatesBytes :
    opField 0x7D095220#32 = 31#6 ∧ funcField 0x7D095220#32 = 32#6 ∧ bfuncField 0x7D095220#32 = 8#5 ∧
    opField 0x7D095260#32 = 31#6 ∧ funcField 0x7D095260#32 = 32#6 ∧ bfuncField 0x7D095260#32 = 9#5 ∧
    opField 0x7D0952A0#32 = 31#6 ∧ funcField 0x7D0952A0#32 = 32#6 ∧ bfuncField 0x7D0952A0#32 = 10#5 ∧
    opField 0x7D0952E0#32 = 31#6 ∧ funcField 0x7D0952E0#32 = 32#6 ∧ bfuncField 0x7D0952E0#32 = 11#5 := by
  decide

theorem witness_ExtractBitField :
    opField 0x7D0A5A00#32 = 31#6 ∧ funcField 0x7D0A5A00#32 = 0#6 ∧
    (31 : BitIndex).val + (0 : BitIndex).val ≤ 31 ∧
    (0 : BitIndex).val + (31 : BitIndex).val ≤ 31 ∧
    31 < (31 : BitIndex).val + (1 : BitIndex).val ∧
    31 < (31 : BitIndex).val + (31 : BitIndex).val := by
  decide

theorem witness_InsertBitField :
    opField 0x7D0A5A04#32 = 31#6 ∧ funcField 0x7D0A5A04#32 = 4#6 ∧
    (31 : BitIndex).val ≤ (31 : BitIndex).val ∧
    (0 : BitIndex).val ≤ (31 : BitIndex).val ∧
    (0 : BitIndex).val < (1 : BitIndex).val ∧
    (30 : BitIndex).val < (31 : BitIndex).val := by
  decide

theorem witness_PcRelativeResults :
    opField 0xED03FFFF#32 = 59#6 ∧ pfunc2Field 0xED03FFFF#32 = 0#2 ∧
    opField 0xED1EFFFF#32 = 59#6 ∧ subopField 0xED1EFFFF#32 = 30#5 ∧
    opField 0xED1FFFFF#32 = 59#6 ∧ subopField 0xED1FFFFF#32 = 31#5 := by
  decide

theorem witness_PcRelativeLoad :
    opField 0xED0C0000#32 = 59#6 ∧ pfunc2Field 0xED0C0000#32 = 1#2 := by
  decide

/-- A `pc` from which the lowest offset reaches address 0. -/
def high : State := start [] 0x100000 0

/-- An offset of 0 and the lowest, mapped; a misaligned `pc`; an absent word. -/
theorem witness_PcRelativeLoad_addresses :
    relTarget high.pc (4 * (0#19).toInt) = 0x100000 ∧ relTarget high.pc (4 * (0x40000#19).toInt) = 0 ∧
    (0x100000#32).toNat % 4 = 0 ∧ MappedAt high 0x100000 4 ∧ (0#32).toNat % 4 = 0 ∧ MappedAt high 0 4 ∧
    (relTarget (high.jump 0x100002).pc (4 * (0#19).toInt)).toNat % 4 ≠ 0 ∧
    ¬MappedAt (onlyMapped high 0 0x100002) 0x100000 4 := by
  unfold MappedAt
  decide

theorem witness_FloatingPointStubFails :
    opField 0x44080000#32 = 17#6 ∧
    opField 0x47FFFFFF#32 = 17#6 := by
  decide

end Sys2Proof.Tests
end

section
/-! PROOFS. The register file, the pending slot and the exception record (spec/10_state.md): which step writes which
register and `pc`, and that no step reads the record. -/

namespace Sys2Proof.Machine

/-! ## `update_pc()` under updates -/

@[simp] theorem delayedBranch_updatedPc (s : State) (t : Word) : (s.delayedBranch t).updatedPc = t := rfl

@[simp] theorem placeValue_updatedPc (s : State) (a : Word) (n : AccessSize) (v : Word) :
    (s.placeValue a n v).updatedPc = s.updatedPc := rfl

theorem updatedPc_of_dbt_none {s : State} (h : s.dbt = none) : s.updatedPc = s.pc + 4#32 := by
  simp [State.updatedPc, h]

/-- Settles O25: `update_pc()` takes the armed target and empties the slot, and on an empty slot it advances by 4. -/
theorem pendingBranchCommitsOnce : Obligations.PendingBranchCommitsOnce := by
  intro s T
  have advance (u : State) (h : u.dbt = none) : u.updatePc.pc.toNat = (u.pc.toNat + 4) % 2 ^ 32 := by
    rw [updatePc_pc, updatedPc_of_dbt_none h, BitVec.toNat_add]
    rfl
  exact ⟨⟨by simp, by simp, by simpa using advance (s.delayedBranch T).updatePc (by simp)⟩,
    fun h => ⟨advance s h, by simp⟩⟩

/-- Settles O23, from what a register reads after a write (`reg_setReg`). -/
theorem registerZeroAndRegisterWrites : Obligations.RegisterZeroAndRegisterWrites :=
  fun s r q v => ⟨reg_zero s, setReg_zero s v, fun _ => setReg_zero s _, fun _ => setReg_zero s _,
    fun hr => by simp [reg_setReg, hr], fun hq => by simp [reg_setReg, hq]⟩

/-! ## What one instruction writes -/

/-- An instruction writes no register but its destination (R24). -/
theorem Effect.reg_eq {i : Instr} {s t : State} (h : Effect i s t) {q : Reg} (hq : destination i ≠ some q) :
    t.reg q = s.reg q := by
  have ne_of_destination {r : Reg} (hd : destination i = some r) : q ≠ r := fun e => hq (e ▸ hd)
  cases h with
  | nothing | failure | trap | arm | jump | store => simp
  | result r v hd => simp [reg_setReg, ne_of_destination hd]
  | linkArm _ _ hd | linkJump _ _ hd | link _ hd => simp [link_reg, ne_of_destination hd]

/-- An instruction that is no compact transfer leaves `pc` as `update_pc()` made it (R26). -/
theorem Effect.pc_eq {i : Instr} {s t : State} (h : Effect i s t) (hi : isCompactTransfer i = false) :
    t.pc = s.updatedPc := by
  cases h with
  | nothing | result | failure | trap | arm | linkArm | store => simp
  | jump _ hc | linkJump _ hc | link hc => simp [hi] at hc

/-- Settles O14: a step without a decoded instruction writes no register, and `Effect.reg_eq` speaks of the others. -/
theorem stepsWriteOnlyTheDestination : Obligations.StepsWriteOnlyTheDestination := by
  intro s t q h hq
  obtain ⟨-, rfl⟩ | ⟨_, _, -, -, rfl⟩ | ⟨w, i, hf, hd, -, he⟩ := step_cases h
  · exact absurd (by simp) hq
  · exact absurd (by simp) hq
  · exact ⟨w, i, hf, hd, Decidable.byContradiction fun hn => hq (he.reg_eq hn)⟩

/-- Settles O15: a rejected word only runs `update_pc()`, and `Effect.pc_eq` speaks of the instructions. -/
theorem onlyCompactTransfersWritePc : Obligations.OnlyCompactTransfersWritePc := by
  intro s t w hf h hpc
  obtain ⟨hn, -⟩ | ⟨_, _, -, -, rfl⟩ | ⟨w', i, hf', hd, -, he⟩ := step_cases h
  · simp [hn] at hf
  · exact absurd (by simp) hpc
  · obtain rfl : w' = w := Option.some.inj (hf'.symm.trans hf)
    exact ⟨i, hd, eq_true_of_ne_false fun hi => hpc (he.pc_eq hi)⟩

/-! ## The state with another exception record and last answer -/

/-- `s` with the exception record `e` and the last answer `a`. -/
def State.withRecord (s : State) (e : Option ExcRecord) (a : Answer) : State := { s with exc := e, answer := a }

/-- What a step answers when the record before it was `e`: the record stays `e`, unless the step traps. -/
def keepRecord (e : Option ExcRecord) : Result → Result
  | .next t => .next (if t.answer = .failure .trap then t else { t with exc := e })
  | .fault r => .fault r
  | .refused r => .refused r

section Record

variable (s : State) (e : Option ExcRecord) (a : Answer)

/-! ### Operations see only the rest of the state -/

@[simp] theorem withRecord_config : (s.withRecord e a).config = s.config := rfl

theorem withRecord_cpc : (s.withRecord e a).cpc = s.cpc := by
  rw [cpc_eq, cpc_eq]
  rfl

@[simp] theorem withRecord_memRead (addr : Word) (n : AccessSize) :
    (s.withRecord e a).memRead addr n = s.memRead addr n := rfl

@[simp] theorem withRecord_updatePc : (s.withRecord e a).updatePc = s.updatePc.withRecord e a := by
  cases s with
  | mk regs pc dbt exc mem config answer => cases dbt <;> rfl

@[simp] theorem withRecord_setReg (r : Reg) (v : Word) :
    (s.withRecord e a).setReg r v = (s.setReg r v).withRecord e a := by
  unfold State.setReg
  split <;> rfl

@[simp] theorem withRecord_link : (s.withRecord e a).link = s.link.withRecord e a :=
  withRecord_setReg s e a 31 s.pc

@[simp] theorem withRecord_delayedBranch (t : Word) :
    (s.withRecord e a).delayedBranch t = (s.delayedBranch t).withRecord e a := rfl

@[simp] theorem withRecord_jump (t : Word) : (s.withRecord e a).jump t = (s.jump t).withRecord e a := rfl

@[simp] theorem withRecord_memWrite (addr : Word) (n : AccessSize) (v : Word) :
    (s.withRecord e a).memWrite addr n v = (s.memWrite addr n v).map (·.withRecord e a) := by
  unfold State.memWrite
  rw [withRecord_config]
  split <;> rfl

/-! ### Every end of a step overwrites the answer, and a trap the record -/

@[simp] theorem succeed_withRecord : succeed (s.withRecord e a) = keepRecord e (succeed s) := rfl

theorem failStep_withRecord {reason : FailReason} (h : reason ≠ .trap) :
    failStep reason (s.withRecord e a) = keepRecord e (failStep reason s) := by
  have ha : (s.withAnswer (.failure reason)).answer ≠ .failure .trap := by simpa using h
  exact congrArg Host.Outcome.next (if_neg ha).symm

@[simp] theorem raiseTrap_withRecord (raw : Word) :
    raiseTrap raw (s.withRecord e a) = keepRecord e (raiseTrap raw s) := rfl

/-! ### The shapes of instructions -/

@[simp] theorem doNothing_withRecord : doNothing (s.withRecord e a) = keepRecord e (doNothing s) := by
  simp [doNothing]

@[simp] theorem writeResult_withRecord (rd : Reg) (v : Word) :
    writeResult rd v (s.withRecord e a) = keepRecord e (writeResult rd v s) := by
  simp [writeResult]

theorem divideInto_withRecord (rd : Reg) (d v : Word) :
    divideInto rd d v (s.withRecord e a) = keepRecord e (divideInto rd d v s) := by
  unfold divideInto
  split <;> simp [failStep_withRecord]

theorem fieldInto_withRecord (rt : Reg) (out : Bool) (v : Word) :
    fieldInto rt out v (s.withRecord e a) = keepRecord e (fieldInto rt out v s) := by
  cases out <;> simp [fieldInto, failStep_withRecord]

theorem trapIf_withRecord (c : Bool) (raw : Word) :
    trapIf c raw (s.withRecord e a) = keepRecord e (trapIf c raw s) := by
  cases c <;> simp [trapIf]

theorem branchDelayed_withRecord (c : Bool) {t' t : Word} (ht : t' = t) :
    branchDelayed c t' (s.withRecord e a) = keepRecord e (branchDelayed c t s) := by
  subst ht
  cases c <;> simp [branchDelayed]

theorem jumpDelayedLink_withRecord {t' t : Word} (ht : t' = t) :
    jumpDelayedLink t' (s.withRecord e a) = keepRecord e (jumpDelayedLink t s) := by
  subst ht
  simp [jumpDelayedLink]

theorem branchCompact_withRecord (c : Bool) {t' t : Word} (ht : t' = t) :
    branchCompact c t' (s.withRecord e a) = keepRecord e (branchCompact c t s) := by
  subst ht
  cases c <;> simp [branchCompact]

theorem branchCompactLink_withRecord (c : Bool) {t' t : Word} (ht : t' = t) :
    branchCompactLink c t' (s.withRecord e a) = keepRecord e (branchCompactLink c t s) := by
  subst ht
  cases c <;> simp [branchCompactLink]

theorem loadInto_withRecord (rt : Reg) (addr : Word) (n : AccessSize) (extend : Word → Word) :
    loadInto rt addr n extend (s.withRecord e a) = keepRecord e (loadInto rt addr n extend s) := by
  rw [loadInto, loadInto, withRecord_memRead]
  cases s.memRead addr n <;> simp [failStep_withRecord]

theorem storeFrom_withRecord (addr : Word) (n : AccessSize) (v : Word) :
    storeFrom addr n v (s.withRecord e a) = keepRecord e (storeFrom addr n v s) := by
  rw [storeFrom, storeFrom, withRecord_memWrite]
  cases s.memWrite addr n v <;> simp [failStep_withRecord]

theorem rejectStep_withRecord (r : Reject) :
    rejectStep r (s.withRecord e a) = keepRecord e (rejectStep r s) := by
  have hr : rejectReason s r ≠ .trap := by
    obtain h | h | h := rejectReason_cases s r <;> simp [h]
  have same : rejectReason (s.withRecord e a) r = rejectReason s r := by cases r <;> rfl
  rw [rejectStep, rejectStep, same, withRecord_updatePc, failStep_withRecord _ _ _ hr]

/-! ### Every instruction and every step -/

/-- One case per shape. Registers, `pc` and the parameters read the same by computation; a target taken from `cpc`
needs `withRecord_cpc`, since `update_pc()` branches on `dbt`. -/
theorem exec_withRecord (i : Instr) : exec i (s.withRecord e a) = keepRecord e (exec i s) := by
  have hcpc := withRecord_cpc s e a
  cases i with
  | sll | srl | rotr | sra | sllv | srlv | rotrv | srav | clz | clo | mul | muh | mulu | muhu | add | addu | sub
  | subu | and | or | xor | nor | slt | sltu | seleqz | selnez | addiu | slti | sltiu | andi | ori | xori | aui
  | bitswap | wsbh | align | seb | seh | addiupc | auipc | aluipc => exact writeResult_withRecord s e a _ _
  | div | mod | divu | modu => exact divideInto_withRecord s e a _ _ _
  | ext | ins => exact fieldInto_withRecord s e a _ _ _
  | tge | tgeu | tlt | tltu | teq | tne => exact trapIf_withRecord s e a _ _
  | lb | lh | lw | lbu | lhu | lwpc => exact loadInto_withRecord s e a _ _ _ _
  | sb | sh | sw => exact storeFrom_withRecord s e a _ _ _
  | pop26Nop | pop27Nop => exact doNothing_withRecord s e a
  | cop1 =>
    rw [exec, exec, execCop1, execCop1, withRecord_updatePc]
    exact failStep_withRecord _ _ _ (by decide)
  | jr => exact branchDelayed_withRecord s e a _ rfl
  | jalr => exact jumpDelayedLink_withRecord s e a rfl
  | jic => exact branchCompact_withRecord s e a _ rfl
  | jialc => exact branchCompactLink_withRecord s e a _ rfl
  | bltz | bgez | beq | bne | blez | bgtz | j => exact branchDelayed_withRecord s e a _ (by rw [hcpc])
  | jal => exact jumpDelayedLink_withRecord s e a (by rw [hcpc])
  | bgeuc | bltuc | beqc | bovc | blezc | bgezc | bgec | bgtzc | bltzc | bltc | bnec | bnvc | bc | beqzc | bnezc =>
    exact branchCompact_withRecord s e a _ (by rw [hcpc])
  | blezalc | bgezalc | bgtzalc | bltzalc | beqzalc | bnezalc | balc =>
    exact branchCompactLink_withRecord s e a _ (by rw [hcpc])

/-- No step reads the exception record or the last answer (R33). -/
theorem step_withRecord : step (s.withRecord e a) = keepRecord e (step s) := by
  cases hf : s.fetch with
  | none =>
    rw [step_of_fetch_none hf, step_of_fetch_none (s := s.withRecord e a) hf]
    exact failStep_withRecord s e a (by decide)
  | some w =>
    cases hd : decode w with
    | error r =>
      rw [step_of_reject hf hd, step_of_reject (s := s.withRecord e a) hf hd]
      exact rejectStep_withRecord s e a r
    | ok i =>
      rw [step_of_decode hf hd, step_of_decode (s := s.withRecord e a) hf hd]
      exact exec_withRecord s e a i

end Record

/-- Settles O18: with another record and answer before it, a step answers as `step_withRecord` says. -/
theorem exceptionRecordIsNeverRead : Obligations.ExceptionRecordIsNeverRead := by
  intro s t e a h
  refine ⟨_, (step_withRecord s e a).trans (by rw [h]; rfl), ?_⟩
  by_cases ht : t.answer = .failure .trap <;> simp [ht]

end Sys2Proof.Machine
end

section
/-! PROOFS. The memory (spec/20_memory.md): which requests are accepted, what a read returns after a store, under
either byte order, and that no instruction but a store changes a byte. -/

namespace Sys2Proof.Machine

/-! ## Accepted requests -/

theorem memWrite_eq_none_iff (s : State) (a : Word) (n : AccessSize) (v : Word) :
    s.memWrite a n v = none ↔ a.toNat % n.bytes ≠ 0 ∨ ¬MappedAt s a n.bytes := by
  refine ⟨fun h => ?_, memWrite_of_rejected v⟩
  by_contra hn
  obtain ⟨ha, hm⟩ := not_or.1 hn
  simp [memWrite_of_accepted v (not_not.1 ha) (not_not.1 hm)] at h

/-- An accepted write: the request's alignment and mapping, and the state it leaves. -/
theorem memWrite_eq_some_iff {s t : State} {a : Word} {n : AccessSize} {v : Word} :
    s.memWrite a n v = some t ↔ (a.toNat % n.bytes = 0 ∧ MappedAt s a n.bytes) ∧ s.placeValue a n v = t := by
  rw [State.memWrite, Option.ite_none_right_eq_some, acceptsRequest_iff, Option.some.injEq]

/-- Whether a byte is mapped depends on the parameters alone. -/
theorem MappedAt.congr {s t : State} {a : Word} {n : Nat} (h : MappedAt s a n) (hc : t.config = s.config) :
    MappedAt t a n := by
  rwa [MappedAt, hc]

/-! ## What a write leaves in memory -/

theorem readByte_placeValue_other (s : State) {a : Word} {n : AccessSize} (v : Word) {b : Nat}
    (h : ¬(a.toNat ≤ b ∧ b < a.toNat + n.bytes)) : (s.placeValue a n v).mem.readByte b = s.mem.readByte b := by
  rw [placeValue_mem]
  exact readByte_writeBytes_other _ _ _ (by simpa using h)

theorem readByte_placeValue_at {s : State} (hw : s.mem.wf) (a : Word) (n : AccessSize) (v : Word) {k : Nat}
    (hk : k < n.bytes) : (s.placeValue a n v).mem.readByte (a.toNat + k) =
      v.extractLsb' (8 * byteLane s.config.endian n.bytes k) 8 := by
  rw [placeValue_mem, readByte_writeBytes_at hw _ _ (by simpa using hk), splitBytes_getElem]

theorem readBytes_placeValue {s : State} (hw : s.mem.wf) (a : Word) (n : AccessSize) (v : Word) :
    (s.placeValue a n v).mem.readBytes a.toNat n.bytes = splitBytes s.config.endian v n.bytes := by
  simpa using readBytes_writeBytes hw a.toNat (splitBytes s.config.endian v n.bytes)

theorem readBytes_congr {m m' : Memory} {a n : Nat}
    (h : ∀ b, a ≤ b → b < a + n → m'.readByte b = m.readByte b) : m'.readBytes a n = m.readBytes a n := by
  refine List.ext_getElem (by simp) fun k hk _ => ?_
  rw [readBytes_length] at hk
  rw [readBytes_getElem, readBytes_getElem]
  exact h (a + k) (by omega) (by omega)

/-- Settles O7: the conditions are `memRead_eq_none_iff` and `memWrite_eq_none_iff`, and an accepted write is
`placeValue`, which touches the bytes of its request. -/
theorem accessErrorsAndStoreFrame : Obligations.AccessErrorsAndStoreFrame := by
  intro s a v n
  refine ⟨memRead_eq_none_iff s a n, memWrite_eq_none_iff s a n v, fun t _ h => ?_⟩
  obtain ⟨-, rfl⟩ := memWrite_eq_some_iff.1 h
  exact ⟨fun b hb => readByte_placeValue_other s v hb, by simp, by simp, by simp, by simp, by simp⟩

/-- Settles O5: the bytes read are those the store split the value into (R56). -/
theorem storeThenReadReturnsTheValue : Obligations.StoreThenReadReturnsTheValue := by
  intro s t u a v n hw h hc hb
  obtain ⟨⟨ha, hm⟩, rfl⟩ := memWrite_eq_some_iff.1 h
  rw [placeValue_config] at hc
  rw [memRead_of_accepted ha (hm.congr hc), hc, readBytes_congr hb, readBytes_placeValue hw, assemble_splitBytes]

/-! ## Reading a part of a stored word -/

/-- A value is fixed by its bytes: two values that a request can read are equal. -/
theorem ReadsAs.unique {s : State} {a n : Nat} {v w : Word} (hv : ReadsAs s a n v) (hw : ReadsAs s a n w) :
    v = w := by
  obtain ⟨hvlt, hvb⟩ := hv
  obtain ⟨hwlt, hwb⟩ := hw
  apply BitVec.eq_of_getLsbD_eq
  intro i hi
  rcases Nat.lt_or_ge i (8 * n) with h | h
  · have hbyte := congrArg (·.getLsbD (i % 8)) ((hvb (i / 8) (by omega)).trans (hwb (i / 8) (by omega)).symm)
    simpa [Nat.mod_lt, Nat.div_add_mod] using hbyte
  · have hpow : 2 ^ (8 * n) ≤ 2 ^ i := Nat.pow_le_pow_right (by decide) h
    rw [← BitVec.testBit_toNat, ← BitVec.testBit_toNat, Nat.testBit_lt_two_pow (hvlt.trans_le hpow),
      Nat.testBit_lt_two_pow (hwlt.trans_le hpow)]

theorem memRead_of_readsAs {s : State} {a v : Word} {n : AccessSize} (ha : a.toNat % n.bytes = 0)
    (hm : MappedAt s a n.bytes) (hv : ReadsAs s a.toNat n.bytes v) : s.memRead a n = some v := by
  rw [memRead_of_accepted ha hm, (readsAs_assemble s a.toNat n).unique hv]

/-- An offset inside an aligned word does not wrap. -/
theorem toNat_add_of_aligned {a : Word} {k : Nat} (ha : a.toNat % 4 = 0) (hk : k < 4) :
    (a + BitVec.ofNat 32 k).toNat = a.toNat + k := by
  have := a.isLt
  rw [BitVec.toNat_add, BitVec.toNat_ofNat]
  omega

/-- The bytes `lo`, `lo + 1`, … of a word, `n` of them, are what is read where memory holds just those. -/
theorem readsAs_extract {s : State} {a n lo : Nat} {v : Word} (hn : n ≤ 4) (h : ∀ k < n,
    s.mem.readByte (a + byteLane s.config.endian n k) = v.extractLsb' (8 * (lo + k)) 8) :
    ReadsAs s a n ((v.extractLsb' (8 * lo) (8 * n)).zeroExtend 32) := by
  refine ⟨?_, fun k hk => ?_⟩
  · rw [BitVec.toNat_setWidth_of_le (by omega)]
    exact BitVec.isLt _
  · rw [h k hk]
    ext i hi
    simp [show 8 * k + i < 32 by omega, show 8 * k + i < 8 * n by omega, Nat.mul_add, Nat.add_assoc]

/-- A part of `n` bytes at offset `off` of a word holds consecutive lanes of it. The lowest is `off` under little and
`4 - n - off` under big: the lane of `off` among the `4 - n + 1` offsets at which such a part fits. -/
theorem byteLane_part (e : Endian) {n off k : Nat} (hoff : off + n ≤ 4) (hk : k < n) :
    byteLane e 4 (off + byteLane e n k) = byteLane e (4 - n + 1) off + k := by
  cases e with
  | little => rfl
  | big =>
    simp only [byteLane]
    omega

theorem byteLane_lt (e : Endian) {n k : Nat} (hk : k < n) : byteLane e n k < n := by
  cases e with
  | little => exact hk
  | big =>
    simp only [byteLane]
    omega

/-- After a word `v` was stored at `a`, an aligned request inside the word reads the lanes of `v` that
`byteLane_part` names (R53). -/
theorem memRead_part_of_placed_word {s : State} {a v : Word} {n : AccessSize} {off : Nat} (hw : s.mem.wf)
    (ha : a.toNat % 4 = 0) (hm : MappedAt s a 4) (hoff : off + n.bytes ≤ 4) (hal : off % n.bytes = 0) :
    (s.placeValue a .word v).memRead (a + BitVec.ofNat 32 off) n = some
      ((v.extractLsb' (8 * byteLane s.config.endian (4 - n.bytes + 1) off) (8 * n.bytes)).zeroExtend 32) := by
  have hpos : 0 < n.bytes := by cases n <;> decide
  have hdvd : n.bytes ∣ 4 := by cases n <;> decide
  have haddr := toNat_add_of_aligned ha (k := off) (by omega)
  refine memRead_of_readsAs ?_ (fun k hk => ?_) (readsAs_extract (by omega) fun k hk => ?_)
  · rw [haddr]
    exact Nat.mod_eq_zero_of_dvd (dvd_add (hdvd.trans (Nat.dvd_of_mod_eq_zero ha)) (Nat.dvd_of_mod_eq_zero hal))
  · rw [haddr, Nat.add_assoc]
    exact hm (off + k) (by omega)
  · have hlt := byteLane_lt s.config.endian hk
    rw [placeValue_config, haddr, Nat.add_assoc,
      readByte_placeValue_at hw a .word v (show off + _ < 4 by omega)]
    exact congrArg (fun j => v.extractLsb' (8 * j) 8) (byteLane_part s.config.endian hoff hk)

/-- Settles O6: `memRead_part_of_placed_word` for a byte at offset `k` and for a half-word at offset `2h`. -/
theorem narrowReadsOfAStoredWord : Obligations.NarrowReadsOfAStoredWord := by
  intro s t a v hw h
  obtain ⟨⟨ha, hm⟩, rfl⟩ := memWrite_eq_some_iff.1 h
  refine ⟨fun k hk => ?_, fun h hh => ?_⟩
  · rw [memRead_part_of_placed_word hw ha hm (n := .byte) (show k + 1 ≤ 4 by omega) (Nat.mod_one k)]
    cases s.config.endian <;> simp [byteLane, AccessSize.bytes, Nat.mul_sub]
  · rw [memRead_part_of_placed_word hw ha hm (n := .half) (show 2 * h + 2 ≤ 4 by omega) (Nat.mul_mod_right 2 h)]
    cases s.config.endian <;> simp [byteLane, AccessSize.bytes, Nat.mul_sub, ← Nat.mul_assoc]

/-! ## Which steps change memory -/

/-- An instruction changes no byte outside its store request, and none when it issues no store (R51). -/
theorem Effect.readByte_eq {i : Instr} {s t : State} (h : Effect i s t) {b : Nat}
    (hb : ∀ a n, storeRequest s i = some (a, n) → ¬(a.toNat ≤ b ∧ b < a.toNat + n.bytes)) :
    t.mem.readByte b = s.mem.readByte b := by
  cases h with
  | nothing | result | failure | trap | arm | linkArm | jump | linkJump | link => simp
  | store a n v hi hm =>
    rw [withAnswer_mem, updatePc_mem]
    exact readByte_placeValue_other s v (hb a n hi)

/-- Settles O17: a step without a decoded instruction leaves memory alone, and `Effect.readByte_eq` speaks of the
others. -/
theorem onlyStoresChangeMemory : Obligations.OnlyStoresChangeMemory := by
  intro s t b _ h hb
  obtain ⟨-, rfl⟩ | ⟨_, _, -, -, rfl⟩ | ⟨w, i, hf, hd, -, he⟩ := step_cases h
  · exact absurd (by simp) hb
  · exact absurd (by simp) hb
  · by_contra hn
    exact hb (he.readByte_eq fun a n hi hin => hn ⟨w, i, a, n, hf, hd, hi, hin⟩)

end Sys2Proof.Machine
end

section
/-! PROOFS. The encoding (spec/30_encoding.md): each row of the opcode table against the decoder, in both directions,
and what a step does with a word that no row selects. -/

namespace Sys2Proof

/-- Settles O1, by running the decoder. -/
theorem sampleWordsDecode : Obligations.SampleWordsDecode := by
  unfold Obligations.SampleWordsDecode
  decide

/-! ## What a row fixes in the words it selects -/

theorem Row.selects_iff {r : Row} {w : Word} :
    r.selects w = true ↔ w &&& r.mask = r.pattern ∧ r.constraint.holds (rsField w) (rtField w) = true := by
  simp only [Row.selects, Bool.and_eq_true, beq_iff_eq]

/-- A field that a mask covers is not changed by the mask. -/
theorem extractLsb'_and_of_covered {w m : Word} {lo len : Nat} (hm : m.extractLsb' lo len = BitVec.allOnes len) :
    (w &&& m).extractLsb' lo len = w.extractLsb' lo len := by
  rw [BitVec.extractLsb'_and, hm, BitVec.and_allOnes]

/-- The row gives the field of `len` bits from bit `lo` upward the value `x`. -/
abbrev Row.Fixes (r : Row) (lo len : Nat) (x : BitVec len) : Prop :=
  r.mask.extractLsb' lo len = BitVec.allOnes len ∧ r.pattern.extractLsb' lo len = x

theorem Row.Fixes.field {r : Row} {lo len : Nat} {x : BitVec len} (h : r.Fixes lo len x) {w : Word}
    (hw : r.selects w = true) : w.extractLsb' lo len = x := by
  rw [← h.2, ← (Row.selects_iff.1 hw).1, extractLsb'_and_of_covered h.1]

theorem Row.Fixes.bit {r : Row} {n : Nat} {b : Bool} (h : r.Fixes n 1 (BitVec.ofBool b)) {w : Word}
    (hw : r.selects w = true) : w.getLsbD n = b := by
  simpa using congrArg (BitVec.getLsbD · 0) (h.field hw)

/-! ## The readings of the rows -/

/-- What the words of rows 1 to 20 say, each row's operands read from their fields (R81 to R90). -/
def rowReadings1 : List (Word → Instr) :=
  [ fun w => .sll (rdField w) (rtField w) (shamtField w),
    fun w => .srl (rdField w) (rtField w) (shamtField w),
    fun w => .rotr (rdField w) (rtField w) (shamtField w),
    fun w => .sra (rdField w) (rtField w) (shamtField w),
    fun w => .sllv (rdField w) (rtField w) (rsField w),
    fun w => .srlv (rdField w) (rtField w) (rsField w),
    fun w => .rotrv (rdField w) (rtField w) (rsField w),
    fun w => .srav (rdField w) (rtField w) (rsField w),
    fun w => .jr (rsField w),
    fun w => .jalr (rsField w),
    fun w => .clz (rdField w) (rsField w),
    fun w => .clo (rdField w) (rsField w),
    fun w => .mul (rdField w) (rsField w) (rtField w),
    fun w => .muh (rdField w) (rsField w) (rtField w),
    fun w => .mulu (rdField w) (rsField w) (rtField w),
    fun w => .muhu (rdField w) (rsField w) (rtField w),
    fun w => .div (rdField w) (rsField w) (rtField w),
    fun w => .mod (rdField w) (rsField w) (rtField w),
    fun w => .divu (rdField w) (rsField w) (rtField w),
    fun w => .modu (rdField w) (rsField w) (rtField w) ]

/-- What the words of rows 21 to 40 say, each row's operands read from their fields (R81 to R90). -/
def rowReadings2 : List (Word → Instr) :=
  [ fun w => .add (rdField w) (rsField w) (rtField w),
    fun w => .addu (rdField w) (rsField w) (rtField w),
    fun w => .sub (rdField w) (rsField w) (rtField w),
    fun w => .subu (rdField w) (rsField w) (rtField w),
    fun w => .and (rdField w) (rsField w) (rtField w),
    fun w => .or (rdField w) (rsField w) (rtField w),
    fun w => .xor (rdField w) (rsField w) (rtField w),
    fun w => .nor (rdField w) (rsField w) (rtField w),
    fun w => .slt (rdField w) (rsField w) (rtField w),
    fun w => .sltu (rdField w) (rsField w) (rtField w),
    fun w => .tge (rsField w) (rtField w) (codeField w),
    fun w => .tgeu (rsField w) (rtField w) (codeField w),
    fun w => .tlt (rsField w) (rtField w) (codeField w),
    fun w => .tltu (rsField w) (rtField w) (codeField w),
    fun w => .teq (rsField w) (rtField w) (codeField w),
    fun w => .seleqz (rdField w) (rsField w) (rtField w),
    fun w => .tne (rsField w) (rtField w) (codeField w),
    fun w => .selnez (rdField w) (rsField w) (rtField w),
    fun w => .bltz (rsField w) (immField w),
    fun w => .bgez (rsField w) (immField w) ]

/-- What the words of rows 41 to 60 say, each row's operands read from their fields (R81 to R90). -/
def rowReadings3 : List (Word → Instr) :=
  [ fun w => .j (addressField w),
    fun w => .jal (addressField w),
    fun w => .beq (rsField w) (rtField w) (immField w),
    fun w => .bne (rsField w) (rtField w) (immField w),
    fun w => .blez (rsField w) (immField w),
    fun w => .blezalc (rtField w) (immField w),
    fun w => .bgezalc (rtField w) (immField w),
    fun w => .bgeuc (rsField w) (rtField w) (immField w),
    fun w => .bgtz (rsField w) (immField w),
    fun w => .bgtzalc (rtField w) (immField w),
    fun w => .bltzalc (rtField w) (immField w),
    fun w => .bltuc (rsField w) (rtField w) (immField w),
    fun w => .beqzalc (rtField w) (immField w),
    fun w => .beqc (rsField w) (rtField w) (immField w),
    fun w => .bovc (rsField w) (rtField w) (immField w),
    fun w => .addiu (rtField w) (rsField w) (immField w),
    fun w => .slti (rtField w) (rsField w) (immField w),
    fun w => .sltiu (rtField w) (rsField w) (immField w),
    fun w => .andi (rtField w) (rsField w) (immField w),
    fun w => .ori (rtField w) (rsField w) (immField w) ]

/-- What the words of rows 61 to 80 say, each row's operands read from their fields (R81 to R90). -/
def rowReadings4 : List (Word → Instr) :=
  [ fun w => .xori (rtField w) (rsField w) (immField w),
    fun w => .aui (rtField w) (rsField w) (immField w),
    fun _ => .cop1,
    fun w => .blezc (rtField w) (immField w),
    fun w => .bgezc (rtField w) (immField w),
    fun w => .bgec (rsField w) (rtField w) (immField w),
    fun _ => .pop26Nop,
    fun w => .bgtzc (rtField w) (immField w),
    fun w => .bltzc (rtField w) (immField w),
    fun w => .bltc (rsField w) (rtField w) (immField w),
    fun _ => .pop27Nop,
    fun w => .bnezalc (rtField w) (immField w),
    fun w => .bnec (rsField w) (rtField w) (immField w),
    fun w => .bnvc (rsField w) (rtField w) (immField w),
    fun w => .ext (rtField w) (rsField w) (shamtField w) (msbField w),
    fun w => .ins (rtField w) (rsField w) (shamtField w) (msbField w),
    fun w => .bitswap (rdField w) (rtField w),
    fun w => .wsbh (rdField w) (rtField w),
    fun w => .align (rdField w) (rsField w) (rtField w) (bpField w),
    fun w => .seb (rdField w) (rtField w) ]

/-- What the words of rows 81 to 99 say, each row's operands read from their fields (R81 to R90). -/
def rowReadings5 : List (Word → Instr) :=
  [ fun w => .seh (rdField w) (rtField w),
    fun w => .lb (rtField w) (immField w) (rsField w),
    fun w => .lh (rtField w) (immField w) (rsField w),
    fun w => .lw (rtField w) (immField w) (rsField w),
    fun w => .lbu (rtField w) (immField w) (rsField w),
    fun w => .lhu (rtField w) (immField w) (rsField w),
    fun w => .sb (rtField w) (immField w) (rsField w),
    fun w => .sh (rtField w) (immField w) (rsField w),
    fun w => .sw (rtField w) (immField w) (rsField w),
    fun w => .bc (addressField w),
    fun w => .jic (rtField w) (immField w),
    fun w => .beqzc (rsField w) (imm21Field w),
    fun w => .balc (addressField w),
    fun w => .addiupc (rsField w) (imm19Field w),
    fun w => .lwpc (rsField w) (imm19Field w),
    fun w => .auipc (rsField w) (immField w),
    fun w => .aluipc (rsField w) (immField w),
    fun w => .jialc (rtField w) (immField w),
    fun w => .bnezc (rsField w) (imm21Field w) ]

/-- The readings of the 99 rows, in the order of `opcodeTable`. -/
def rowReadings : List (Word → Instr) :=
  rowReadings1 ++ rowReadings2 ++ rowReadings3 ++ rowReadings4 ++ rowReadings5

theorem rowReadings_mnemonic :
    List.Forall₂ (fun (r : Row) f => ∀ w, Instr.mnemonic (f w) = r.mnemonic) opcodeTable rowReadings := by
  simp only [opcodeTable, opcodeTable1, opcodeTable2, opcodeTable3, opcodeTable4, opcodeTable5, rowReadings,
    rowReadings1, rowReadings2, rowReadings3, rowReadings4, rowReadings5, List.cons_append, List.nil_append,
    List.forall₂_cons, List.Forall₂.nil, Instr.mnemonic, implies_true, and_self]

/-- A reading looks at the row's operand fields only: each field it reads is covered by the row's `operands`. -/
theorem rowReadings_operands :
    List.Forall₂ (fun (r : Row) f => ∀ w, f (w &&& r.operands) = f w) opcodeTable rowReadings := by
  simp (disch := decide) only [opcodeTable, opcodeTable1, opcodeTable2, opcodeTable3, opcodeTable4, opcodeTable5,
    rowReadings, rowReadings1, rowReadings2, rowReadings3, rowReadings4, rowReadings5, List.cons_append,
    List.nil_append, List.forall₂_cons, List.Forall₂.nil, rsField, rtField, rdField, shamtField, msbField, immField,
    imm21Field, imm19Field, addressField, bpField, codeField, extractLsb'_and_of_covered, implies_true, and_self]

/-! ## The decoder where a row fixes less than it matches on -/

section Decoder

variable {w : Word}

theorem bfuncField_top (w : Word) : (bfuncField w).extractLsb' 2 3 = w.extractLsb' 8 3 :=
  (field_eq fun i hi => by simp [bfuncField, hi, show 2 + i < 5 by omega, show 8 + i = 6 + (2 + i) by omega]).symm

/-- All of COP1 is the one stub, whatever its floating-point class (R108, R336). -/
theorem decode_cop1 (hop : opField w = 17#6) : decode w = .ok .cop1 := by
  simp only [decode, classify, hop]
  unfold classifyCop1
  split <;> rfl

/-- ALIGN fixes bits 10..8 only, and the decoder matches on bits 10..6: four values are left. -/
theorem decode_align (w : Word) (hop : opField w = 31#6) (hf : funcField w = 32#6) (hb : w.extractLsb' 8 3 = 2#3) :
    decode w = .ok (.align (rdField w) (rsField w) (rtField w) (bpField w)) := by
  have four : ∀ b : BitVec 5, b.extractLsb' 2 3 = 2#3 → b = 8#5 ∨ b = 9#5 ∨ b = 10#5 ∨ b = 11#5 := by decide
  have hd : decode w = decodeBshfl w := by simp only [decode, classify, hop, classifySpecial3, hf, decodeClass]
  obtain h | h | h | h := four (bfuncField w) ((bfuncField_top w).trans hb) <;> simp only [hd, decodeBshfl, h]

/-- `rs ≥ rt` excludes the two forms that POP10 and POP30 test first. -/
theorem rsGeRt_excludes {rs rt : Reg} (h : Constraint.rsGeRt.holds rs rt = true) :
    ¬(rs = 0 ∧ rt ≠ 0) ∧ ¬rs < rt := by
  have hle : rt ≤ rs := of_decide_eq_true h
  refine ⟨?_, not_lt.2 hle⟩
  rintro ⟨rfl, ht⟩
  exact ht (Fin.le_zero_iff.1 hle)

theorem decode_bovc (w : Word) (hop : opField w = 8#6) (hc : Constraint.rsGeRt.holds (rsField w) (rtField w) = true) :
    decode w = .ok (.bovc (rsField w) (rtField w) (immField w)) := by
  have hd : decode w = .ok (decodePop10 w) := by simp [decode, classify, hop, decodeClass, decodeIType]
  rw [hd, decodePop10, if_neg (rsGeRt_excludes hc).1, if_neg (rsGeRt_excludes hc).2]

theorem decode_bnvc (w : Word) (hop : opField w = 24#6) (hc : Constraint.rsGeRt.holds (rsField w) (rtField w) = true) :
    decode w = .ok (.bnvc (rsField w) (rtField w) (immField w)) := by
  have hd : decode w = .ok (decodePop30 w) := by simp [decode, classify, hop, decodeClass, decodeIType]
  rw [hd, decodePop30, if_neg (rsGeRt_excludes hc).1, if_neg (rsGeRt_excludes hc).2]

end Decoder

/-! ## A selected word decodes to its row's reading -/

/-- The decoder answers the reading `f` of every word the row selects. -/
def Row.Decodes (r : Row) (f : Word → Instr) : Prop := ∀ w, r.selects w = true → decode w = .ok (f w)

/-! A row is evaluated at the fields it fixes: `op`, and for some rows one or two more fields or a bit. Each lemma here
leaves the decoder to run on a word of which only those fields are known. -/

section Keys

variable {r : Row} {f : Word → Instr}

theorem Row.Decodes.of_op (k : BitVec 6) (hk : r.Fixes 26 6 k)
    (h : ∀ w, opField w = k → r.constraint.holds (rsField w) (rtField w) = true → decode w = .ok (f w)) :
    r.Decodes f :=
  fun w hw => h w (hk.field hw) (Row.selects_iff.1 hw).2

theorem Row.Decodes.of_field (k : BitVec 6) (lo len : Nat) (x : BitVec len)
    (hr : r.Fixes 26 6 k ∧ r.Fixes lo len x)
    (h : ∀ w, opField w = k → w.extractLsb' lo len = x → decode w = .ok (f w)) : r.Decodes f :=
  fun w hw => h w (hr.1.field hw) (hr.2.field hw)

theorem Row.Decodes.of_func (k x : BitVec 6) (hr : r.Fixes 26 6 k ∧ r.Fixes 0 6 x)
    (h : ∀ w, opField w = k → funcField w = x → decode w = .ok (f w)) : r.Decodes f :=
  .of_field k 0 6 x hr h

theorem Row.Decodes.of_fields (k : BitVec 6) (lo len : Nat) (x : BitVec len) (lo' len' : Nat) (y : BitVec len')
    (hr : r.Fixes 26 6 k ∧ r.Fixes lo len x ∧ r.Fixes lo' len' y)
    (h : ∀ w, opField w = k → w.extractLsb' lo len = x → w.extractLsb' lo' len' = y → decode w = .ok (f w)) :
    r.Decodes f :=
  fun w hw => h w (hr.1.field hw) (hr.2.1.field hw) (hr.2.2.field hw)

theorem Row.Decodes.of_func_field (k x : BitVec 6) (lo len : Nat) (y : BitVec len)
    (hr : r.Fixes 26 6 k ∧ r.Fixes 0 6 x ∧ r.Fixes lo len y)
    (h : ∀ w, opField w = k → funcField w = x → w.extractLsb' lo len = y → decode w = .ok (f w)) : r.Decodes f :=
  .of_fields k 0 6 x lo len y hr h

theorem Row.Decodes.of_func_bit (k x : BitVec 6) (n : Nat) (b : Bool)
    (hr : r.Fixes 26 6 k ∧ r.Fixes 0 6 x ∧ r.Fixes n 1 (BitVec.ofBool b))
    (h : ∀ w, opField w = k → funcField w = x → w.getLsbD n = b → decode w = .ok (f w)) : r.Decodes f :=
  fun w hw => h w (hr.1.field hw) (hr.2.1.field hw) (hr.2.2.bit hw)

end Keys

/-- Rows 1 to 20: the decoder, run on the fields the row fixes. -/
theorem opcodeTable1_decodes : List.Forall₂ Row.Decodes opcodeTable1 rowReadings1 := by
  simp only [opcodeTable1, rowReadings1, List.forall₂_cons, List.Forall₂.nil, and_true]
  refine ⟨.of_func 0#6 0#6 (by decide) ?_, .of_func_bit 0#6 2#6 21 false (by decide) ?_,
    .of_func_bit 0#6 2#6 21 true (by decide) ?_, .of_func 0#6 3#6 (by decide) ?_, .of_func 0#6 4#6 (by decide) ?_,
    .of_func_bit 0#6 6#6 6 false (by decide) ?_, .of_func_bit 0#6 6#6 6 true (by decide) ?_,
    .of_func 0#6 7#6 (by decide) ?_, .of_func 0#6 8#6 (by decide) ?_, .of_func 0#6 9#6 (by decide) ?_,
    .of_func 0#6 16#6 (by decide) ?_, .of_func 0#6 17#6 (by decide) ?_,
    .of_func_field 0#6 24#6 6 5 2#5 (by decide) ?_, .of_func_field 0#6 24#6 6 5 3#5 (by decide) ?_,
    .of_func_field 0#6 25#6 6 5 2#5 (by decide) ?_, .of_func_field 0#6 25#6 6 5 3#5 (by decide) ?_,
    .of_func_field 0#6 26#6 6 5 2#5 (by decide) ?_, .of_func_field 0#6 26#6 6 5 3#5 (by decide) ?_,
    .of_func_field 0#6 27#6 6 5 2#5 (by decide) ?_, .of_func_field 0#6 27#6 6 5 3#5 (by decide) ?_⟩
  all_goals
    intros
    simp only [decode, classify, decodeClass, decodeRType, decodeSop, bfuncField, if_true, if_false,
      Bool.false_eq_true, *]

/-- Rows 21 to 40: the decoder, run on the fields the row fixes. -/
theorem opcodeTable2_decodes : List.Forall₂ Row.Decodes opcodeTable2 rowReadings2 := by
  simp only [opcodeTable2, rowReadings2, List.forall₂_cons, List.Forall₂.nil, and_true]
  refine ⟨.of_func 0#6 32#6 (by decide) ?_, .of_func 0#6 33#6 (by decide) ?_, .of_func 0#6 34#6 (by decide) ?_,
    .of_func 0#6 35#6 (by decide) ?_, .of_func 0#6 36#6 (by decide) ?_, .of_func 0#6 37#6 (by decide) ?_,
    .of_func 0#6 38#6 (by decide) ?_, .of_func 0#6 39#6 (by decide) ?_, .of_func 0#6 42#6 (by decide) ?_,
    .of_func 0#6 43#6 (by decide) ?_, .of_func 0#6 48#6 (by decide) ?_, .of_func 0#6 49#6 (by decide) ?_,
    .of_func 0#6 50#6 (by decide) ?_, .of_func 0#6 51#6 (by decide) ?_, .of_func 0#6 52#6 (by decide) ?_,
    .of_func 0#6 53#6 (by decide) ?_, .of_func 0#6 54#6 (by decide) ?_, .of_func 0#6 55#6 (by decide) ?_,
    .of_field 1#6 16 5 0#5 (by decide) ?_, .of_field 1#6 16 5 1#5 (by decide) ?_⟩
  all_goals
    intros
    simp only [decode, classify, decodeClass, decodeRType, decodeRegimm, subopField, *]

/-- Rows 41 to 60: the decoder, run on the fields the row fixes. -/
theorem opcodeTable3_decodes : List.Forall₂ Row.Decodes opcodeTable3 rowReadings3 := by
  simp only [opcodeTable3, rowReadings3, List.forall₂_cons, List.Forall₂.nil, and_true]
  refine ⟨.of_op 2#6 (by decide) ?_, .of_op 3#6 (by decide) ?_, .of_op 4#6 (by decide) ?_,
    .of_op 5#6 (by decide) ?_, .of_op 6#6 (by decide) ?_, .of_op 6#6 (by decide) ?_, .of_op 6#6 (by decide) ?_,
    .of_op 6#6 (by decide) ?_, .of_op 7#6 (by decide) ?_, .of_op 7#6 (by decide) ?_, .of_op 7#6 (by decide) ?_,
    .of_op 7#6 (by decide) ?_, .of_op 8#6 (by decide) ?_, .of_op 8#6 (by decide) ?_,
    .of_op 8#6 (by decide) @decode_bovc, .of_op 9#6 (by decide) ?_, .of_op 10#6 (by decide) ?_,
    .of_op 11#6 (by decide) ?_, .of_op 12#6 (by decide) ?_, .of_op 13#6 (by decide) ?_⟩
  all_goals
    intros
    simp_all [decode, classify, decodeClass, decodeJType, decodeIType, decodePop06, decodePop07, decodePop10,
      Constraint.holds]

/-- Rows 61 to 80: the decoder, run on the fields the row fixes. -/
theorem opcodeTable4_decodes : List.Forall₂ Row.Decodes opcodeTable4 rowReadings4 := by
  simp only [opcodeTable4, rowReadings4, List.forall₂_cons, List.Forall₂.nil, and_true]
  refine ⟨.of_op 14#6 (by decide) ?_, .of_op 15#6 (by decide) ?_,
    .of_op 17#6 (by decide) fun _ hop _ => decode_cop1 hop, .of_op 22#6 (by decide) ?_, .of_op 22#6 (by decide) ?_,
    .of_op 22#6 (by decide) ?_, .of_op 22#6 (by decide) ?_, .of_op 23#6 (by decide) ?_, .of_op 23#6 (by decide) ?_,
    .of_op 23#6 (by decide) ?_, .of_op 23#6 (by decide) ?_, .of_op 24#6 (by decide) ?_, .of_op 24#6 (by decide) ?_,
    .of_op 24#6 (by decide) @decode_bnvc, .of_func 31#6 0#6 (by decide) ?_, .of_func 31#6 4#6 (by decide) ?_,
    .of_func_field 31#6 32#6 6 5 0#5 (by decide) ?_, .of_func_field 31#6 32#6 6 5 2#5 (by decide) ?_,
    .of_func_field 31#6 32#6 8 3 2#3 (by decide) @decode_align, .of_func_field 31#6 32#6 6 5 16#5 (by decide) ?_⟩
  all_goals
    intros
    simp_all [decode, classify, classifySpecial3, decodeClass, decodeIType, decodePop26, decodePop27, decodePop30,
      decodeBshfl, bfuncField, Constraint.holds]

/-- Rows 81 to 99: the decoder, run on the fields the row fixes. -/
theorem opcodeTable5_decodes : List.Forall₂ Row.Decodes opcodeTable5 rowReadings5 := by
  simp only [opcodeTable5, rowReadings5, List.forall₂_cons, List.Forall₂.nil, and_true]
  refine ⟨.of_func_field 31#6 32#6 6 5 24#5 (by decide) ?_, .of_op 32#6 (by decide) ?_, .of_op 33#6 (by decide) ?_,
    .of_op 35#6 (by decide) ?_, .of_op 36#6 (by decide) ?_, .of_op 37#6 (by decide) ?_, .of_op 40#6 (by decide) ?_,
    .of_op 41#6 (by decide) ?_, .of_op 43#6 (by decide) ?_, .of_op 50#6 (by decide) ?_, .of_op 54#6 (by decide) ?_,
    .of_op 54#6 (by decide) ?_, .of_op 58#6 (by decide) ?_, .of_field 59#6 19 2 0#2 (by decide) ?_,
    .of_field 59#6 19 2 1#2 (by decide) ?_, .of_fields 59#6 19 2 3#2 16 5 30#5 (by decide) ?_,
    .of_fields 59#6 19 2 3#2 16 5 31#5 (by decide) ?_, .of_op 62#6 (by decide) ?_, .of_op 62#6 (by decide) ?_⟩
  all_goals
    intros
    simp_all [decode, classify, classifySpecial3, classifyPcrel, decodeClass, decodeBshfl, decodeIType, decodeJType,
      decodeLongImm, decodePcrel1, decodePcrel2, bfuncField, pfunc2Field, subopField, Constraint.holds]

/-! ## Every row's words decode, and only to that row -/

theorem opcodeTable_decodes : List.Forall₂ Row.Decodes opcodeTable rowReadings :=
  List.rel_append (List.rel_append (List.rel_append (List.rel_append opcodeTable1_decodes opcodeTable2_decodes)
    opcodeTable3_decodes) opcodeTable4_decodes) opcodeTable5_decodes

/-- Every row has a reading: what the decoder answers of the words it selects, an instruction of its mnemonic that
depends on its operand fields only. -/
theorem Row.exists_reading {r : Row} (hr : r ∈ opcodeTable) :
    ∃ f, r.Decodes f ∧ (∀ w, (f w).mnemonic = r.mnemonic) ∧ ∀ w, f (w &&& r.operands) = f w := by
  obtain ⟨k, hk, rfl⟩ := List.getElem_of_mem hr
  have hk' : k < rowReadings.length := opcodeTable_decodes.length_eq ▸ hk
  exact ⟨rowReadings[k], opcodeTable_decodes.get hk hk', rowReadings_mnemonic.get hk hk',
    rowReadings_operands.get hk hk'⟩

theorem opcodeTable_mnemonics_nodup : (opcodeTable.map Row.mnemonic).Nodup := by
  decide

/-- Two rows that select the same word carry the mnemonic of the one instruction it decodes to. -/
theorem Row.eq_of_selects {r q : Row} {w : Word} (hr : r ∈ opcodeTable) (hq : q ∈ opcodeTable)
    (hrw : r.selects w = true) (hqw : q.selects w = true) : r = q := by
  obtain ⟨f, hf, hfm, -⟩ := Row.exists_reading hr
  obtain ⟨g, hg, hgm, -⟩ := Row.exists_reading hq
  have hfg : f w = g w := Except.ok.inj ((hf w hrw).symm.trans (hg w hqw))
  refine List.inj_on_of_nodup_map opcodeTable_mnemonics_nodup hr hq ?_
  rw [← hfm w, hfg, hgm w]

/-- Settles O4: the decoder answers the row's reading, which sees the operand fields only. -/
theorem ignoredFieldsHaveNoEffect : Obligations.IgnoredFieldsHaveNoEffect := by
  intro r w v hr hw hv h
  obtain ⟨f, hf, -, ho⟩ := Row.exists_reading hr
  rw [hf w hw, hf v hv, ← ho w, h, ho v]

/-! ## Every decoded word has a row -/

/-- Some row selects the word. -/
def HasRow (w : Word) : Prop := ∃ r ∈ opcodeTable, r.selects w = true

/-- The table has a row with this mask and constraint whose pattern is as `K` says. -/
abbrev RowWith (m : Word) (c : Constraint) (K : Word → Prop) : Prop :=
  ∃ r ∈ opcodeTable, r.mask = m ∧ r.constraint = c ∧ K r.pattern

theorem pattern_and_mask : ∀ r ∈ opcodeTable, r.pattern &&& r.mask = r.pattern := by
  decide

section Rows

variable {w : Word} {k x : BitVec 6} {c : Constraint}

theorem RowWith.hasRow {m : Word} {K : Word → Prop} (h : RowWith m c K)
    (hm : ∀ p, p &&& m = p → K p → w &&& m = p) (hc : c.holds (rsField w) (rtField w) = true) : HasRow w := by
  obtain ⟨r, hr, rfl, rfl, hK⟩ := h
  exact ⟨r, hr, Row.selects_iff.2 ⟨hm _ (pattern_and_mask r hr) hK, hc⟩⟩

theorem hasRow_of_op (hop : opField w = k) (hc : c.holds (rsField w) (rtField w) = true)
    (h : RowWith 0xFC000000#32 c fun p => opField p = k) : HasRow w :=
  h.hasRow (fun _ hp hk => (mask_FC000000_iff w hp).2 (hop.trans hk.symm)) hc

theorem hasRow_of_rs {x : Reg} (hop : opField w = k) (hx : rsField w = x) (hc : c.holds (rsField w) (rtField w) = true)
    (h : RowWith 0xFFE00000#32 c fun p => opField p = k ∧ rsField p = x) : HasRow w :=
  h.hasRow (fun _ hp hk => (mask_FFE00000_iff w hp).2 ⟨hop.trans hk.1.symm, hx.trans hk.2.symm⟩) hc

theorem hasRow_of_subop {x : BitVec 5} (hop : opField w = k) (hx : subopField w = x)
    (hc : c.holds (rsField w) (rtField w) = true)
    (h : RowWith 0xFC1F0000#32 c fun p => opField p = k ∧ subopField p = x) : HasRow w :=
  h.hasRow (fun _ hp hk => (mask_FC1F0000_iff w hp).2 ⟨hop.trans hk.1.symm, hx.trans hk.2.symm⟩) hc

theorem hasRow_of_pfunc2 {x : BitVec 2} (hop : opField w = k) (hx : pfunc2Field w = x)
    (h : RowWith 0xFC180000#32 .any fun p => opField p = k ∧ pfunc2Field p = x) : HasRow w :=
  h.hasRow (fun _ hp hk => (mask_FC180000_iff w hp).2 ⟨hop.trans hk.1.symm, hx.trans hk.2.symm⟩) rfl

theorem hasRow_of_func (hop : opField w = k) (hx : funcField w = x)
    (h : RowWith 0xFC00003F#32 .any fun p => opField p = k ∧ funcField p = x) : HasRow w :=
  h.hasRow (fun _ hp hk => (mask_FC00003F_iff w hp).2 ⟨hop.trans hk.1.symm, hx.trans hk.2.symm⟩) rfl

theorem hasRow_of_bfunc {y : BitVec 5} (hop : opField w = k) (hx : funcField w = x) (hy : bfuncField w = y)
    (h : RowWith 0xFC0007FF#32 .any fun p => opField p = k ∧ bfuncField p = y ∧ funcField p = x) : HasRow w :=
  h.hasRow (fun _ hp hk => (mask_FC0007FF_iff w hp).2
    ⟨hop.trans hk.1.symm, hy.trans hk.2.1.symm, hx.trans hk.2.2.symm⟩) rfl

/-! ### The handlers -/

theorem bfuncField_of_decodeSop {low high : Reg → Reg → Reg → Instr} {other : Reject} {i : Instr}
    (h : decodeSop w low high other = .ok i) : bfuncField w = 2#5 ∨ bfuncField w = 3#5 := by
  unfold decodeSop at h
  split at h
  case h_1 hb => exact .inl hb
  case h_2 hb => exact .inr hb
  case h_3 => cases h

theorem hasRow_of_decodeSop {low high : Reg → Reg → Reg → Instr} {other : Reject} {i : Instr}
    (hop : opField w = 0#6) (hx : funcField w = x) (h : decodeSop w low high other = .ok i)
    (hr : ∀ y ∈ [2#5, 3#5], RowWith 0xFC0007FF#32 .any fun p =>
      opField p = 0#6 ∧ bfuncField p = y ∧ funcField p = x) : HasRow w :=
  hasRow_of_bfunc hop hx rfl (hr _ (by simpa using bfuncField_of_decodeSop h))

theorem hasRow_of_func_bit21 {b : Bool} (hop : opField w = 0#6) (hx : funcField w = 2#6) (hb : w.getLsbD 21 = b) :
    HasRow w :=
  RowWith.hasRow (m := 0xFC20003F#32) (c := .any)
    (K := fun p => opField p = 0#6 ∧ p.getLsbD 21 = b ∧ funcField p = 2#6) (by cases b <;> decide)
    (fun _ hp hk => (mask_FC20003F_iff w hp).2 ⟨hop.trans hk.1.symm, hb.trans hk.2.1.symm, hx.trans hk.2.2.symm⟩) rfl

theorem hasRow_of_func_bit6 {b : Bool} (hop : opField w = 0#6) (hx : funcField w = 6#6) (hb : w.getLsbD 6 = b) :
    HasRow w :=
  RowWith.hasRow (m := 0xFC00007F#32) (c := .any)
    (K := fun p => opField p = 0#6 ∧ p.getLsbD 6 = b ∧ funcField p = 6#6) (by cases b <;> decide)
    (fun _ hp hk => (mask_FC00007F_iff w hp).2 ⟨hop.trans hk.1.symm, hb.trans hk.2.1.symm, hx.trans hk.2.2.symm⟩) rfl

theorem hasRow_of_decodeRType (hop : opField w = 0#6) {i : Instr} (h : decodeRType w = .ok i) : HasRow w := by
  unfold decodeRType at h
  split at h
  case h_2 hx => exact hasRow_of_func_bit21 hop hx rfl
  case h_5 hx => exact hasRow_of_func_bit6 hop hx rfl
  case h_11 hx | h_12 hx | h_13 hx | h_14 hx => exact hasRow_of_decodeSop hop hx h (by decide)
  case h_33 => cases h
  all_goals exact hasRow_of_func hop ‹_› (by decide)

theorem hasRow_of_decodeRegimm (hop : opField w = 1#6) {i : Instr} (h : decodeRegimm w = .ok i) : HasRow w := by
  unfold decodeRegimm at h
  split at h
  case h_3 => cases h
  all_goals exact hasRow_of_subop (c := .any) hop ‹_› rfl (by decide)

/-- The four forms of POP06, POP07, POP26 and POP27 (R231, R236, R250, R254). -/
theorem hasRow_of_pop (hop : opField w = k)
    (hz : RowWith 0xFC1F0000#32 .rtZero fun p => opField p = k ∧ subopField p = 0#5)
    (hs : RowWith 0xFFE00000#32 .rsZeroRtNonzero fun p => opField p = k ∧ rsField p = 0)
    (he : RowWith 0xFC000000#32 .equalNonzero fun p => opField p = k)
    (hd : RowWith 0xFC000000#32 .distinctNonzero fun p => opField p = k) : HasRow w := by
  by_cases ht : rtField w = 0
  · exact hasRow_of_subop hop ((rtField_eq_zero_iff w).1 ht) (by simp [Constraint.holds, ht]) hz
  by_cases hs0 : rsField w = 0
  · exact hasRow_of_rs hop hs0 (by simp [Constraint.holds, hs0, ht]) hs
  by_cases heq : rsField w = rtField w
  · exact hasRow_of_op hop (by simp [Constraint.holds, heq, ht]) he
  · exact hasRow_of_op hop (by simp [Constraint.holds, hs0, ht, heq]) hd

/-- The three forms of POP10 and POP30 (R241, R246). -/
theorem hasRow_of_popOverflow (hop : opField w = k)
    (hs : RowWith 0xFFE00000#32 .rsZeroRtNonzero fun p => opField p = k ∧ rsField p = 0)
    (hl : RowWith 0xFC000000#32 .rsNonzeroLtRt fun p => opField p = k)
    (hg : RowWith 0xFC000000#32 .rsGeRt fun p => opField p = k) : HasRow w := by
  by_cases hle : rtField w ≤ rsField w
  · exact hasRow_of_op hop (by simp [Constraint.holds, hle]) hg
  have hlt : rsField w < rtField w := not_le.1 hle
  by_cases hs0 : rsField w = 0
  · exact hasRow_of_rs hop hs0 (by simpa [Constraint.holds, hs0] using (Fin.pos_iff_ne_zero.1 (hs0 ▸ hlt))) hs
  · exact hasRow_of_op hop (by simp [Constraint.holds, hs0, hlt]) hl

/-- JIC and JIALC (R260, R263). -/
theorem hasRow_of_rsZero (hop : opField w = k) (hs : rsField w = 0)
    (h : RowWith 0xFFE00000#32 .rsZero fun p => opField p = k ∧ rsField p = 0) : HasRow w :=
  hasRow_of_rs hop hs (by simp [Constraint.holds, hs]) h

theorem hasRow_of_decodeIType (hs : opField w = 54#6 ∨ opField w = 62#6 → rsField w = 0) {i : Instr}
    (h : decodeIType w = .ok i) : HasRow w := by
  unfold decodeIType at h
  split at h
  case h_3 hop | h_4 hop | h_13 hop | h_14 hop =>
    exact hasRow_of_pop hop (by decide) (by decide) (by decide) (by decide)
  case h_5 hop | h_15 hop => exact hasRow_of_popOverflow hop (by decide) (by decide) (by decide)
  case h_24 hop => exact hasRow_of_rsZero hop (hs (.inl hop)) (by decide)
  case h_25 hop => exact hasRow_of_rsZero hop (hs (.inr hop)) (by decide)
  case h_26 => cases h
  all_goals exact hasRow_of_op (c := .any) ‹_› rfl (by decide)

theorem hasRow_of_decodeLongImm (hs : rsField w ≠ 0) {i : Instr} (h : decodeLongImm w = .ok i) : HasRow w := by
  unfold decodeLongImm at h
  split at h
  case h_3 => cases h
  all_goals exact hasRow_of_op (c := .rsNonzero) ‹_› (by simp [Constraint.holds, hs]) (by decide)

theorem hasRow_of_decodeJType {i : Instr} (h : decodeJType w = .ok i) : HasRow w := by
  unfold decodeJType at h
  split at h
  case h_5 => cases h
  all_goals exact hasRow_of_op (c := .any) ‹_› rfl (by decide)

theorem hasRow_of_align (hop : opField w = 31#6) (hf : funcField w = 32#6) (hb : w.extractLsb' 8 3 = 2#3) : HasRow w :=
  RowWith.hasRow (m := 0xFC00073F#32) (c := .any)
    (K := fun p => opField p = 31#6 ∧ p.extractLsb' 8 3 = 2#3 ∧ funcField p = 32#6) (by decide)
    (fun _ hp hk => (mask_FC00073F_iff w hp).2 ⟨hop.trans hk.1.symm, hb.trans hk.2.1.symm, hf.trans hk.2.2.symm⟩) rfl

theorem hasRow_of_decodeBshfl (hop : opField w = 31#6) (hf : funcField w = 32#6) {i : Instr}
    (h : decodeBshfl w = .ok i) : HasRow w := by
  unfold decodeBshfl at h
  split at h
  case h_3 hb | h_4 hb | h_5 hb | h_6 hb =>
    exact hasRow_of_align hop hf (by rw [← bfuncField_top, hb]; decide)
  case h_9 => cases h
  all_goals exact hasRow_of_bfunc hop hf ‹_› (by decide)

theorem hasRow_of_decodePcrel1 (hop : opField w = 59#6) {i : Instr} (h : decodePcrel1 w = .ok i) : HasRow w := by
  unfold decodePcrel1 at h
  split at h
  case h_3 => cases h
  all_goals exact hasRow_of_pfunc2 hop ‹_› (by decide)

theorem hasRow_of_decodePcrel2 (hop : opField w = 59#6) {i : Instr} (h : decodePcrel2 w = .ok i) : HasRow w := by
  unfold decodePcrel2 at h
  split at h
  case h_3 => cases h
  all_goals exact hasRow_of_subop (c := .any) hop ‹_› rfl (by decide)

end Rows

/-! ### The classes -/

/-- What the classifier has read of a word of this class (R103), as far as the class's handler does not read it
again. -/
def InstrClass.Key (w : Word) : InstrClass → Prop
  | .rtype => opField w = 0#6
  | .itype => opField w = 54#6 ∨ opField w = 62#6 → rsField w = 0
  | .longimmItype => rsField w ≠ 0
  | .jtype => True
  | .regimmItype => opField w = 1#6
  | .special3Bshfl => opField w = 31#6 ∧ funcField w = 32#6
  | .special3Ext => opField w = 31#6 ∧ funcField w = 0#6
  | .special3Ins => opField w = 31#6 ∧ funcField w = 4#6
  | .pcrelT1 | .pcrelT2 => opField w = 59#6
  | .fpuRtype | .fpuTtype | .fpuBtype => opField w = 17#6

section Classes

variable {w : Word}

theorem key_of_classifyCop1 (hop : opField w = 17#6) : (classifyCop1 w).Key w := by
  unfold classifyCop1
  split <;> exact hop

theorem key_of_classifySpecial3 (hop : opField w = 31#6) {c : InstrClass} (h : classifySpecial3 w = some c) :
    c.Key w := by
  unfold classifySpecial3 at h
  split at h <;> cases h <;> exact ⟨hop, ‹_›⟩

theorem key_of_classifyPcrel (hop : opField w = 59#6) {c : InstrClass} (h : classifyPcrel w = some c) : c.Key w := by
  unfold classifyPcrel at h
  split at h
  case h_3 => split at h <;> cases h <;> exact hop
  all_goals cases h; exact hop

theorem key_of_rs : (if rsField w = 0 then InstrClass.itype else .longimmItype).Key w := by
  split
  · exact fun _ => ‹_›
  · assumption

theorem classify_key {c : InstrClass} (h : classify w = some c) : c.Key w := by
  unfold classify at h
  split at h
  case h_5 hop => cases h; exact key_of_classifyCop1 hop
  case h_6 hop => exact key_of_classifySpecial3 hop h
  case h_10 hop => exact key_of_classifyPcrel hop h
  case h_8 | h_11 => cases h; exact key_of_rs
  case h_12 h54 _ _ h62 => cases h; exact fun hop => (hop.elim h54 h62).elim
  case h_1 hop | h_2 hop => cases h; exact hop
  all_goals cases h; trivial

theorem hasRow_of_decode {i : Instr} (h : decode w = .ok i) : HasRow w := by
  unfold decode at h
  split at h
  case h_1 => cases h
  case h_2 c hc =>
    have hk := classify_key hc
    cases c with
    | rtype => exact hasRow_of_decodeRType hk h
    | itype => exact hasRow_of_decodeIType hk h
    | longimmItype => exact hasRow_of_decodeLongImm hk h
    | jtype => exact hasRow_of_decodeJType h
    | regimmItype => exact hasRow_of_decodeRegimm hk h
    | special3Bshfl => exact hasRow_of_decodeBshfl hk.1 hk.2 h
    | special3Ext | special3Ins => exact hasRow_of_func hk.1 hk.2 (by decide)
    | pcrelT1 => exact hasRow_of_decodePcrel1 hk h
    | pcrelT2 => exact hasRow_of_decodePcrel2 hk h
    | fpuRtype | fpuTtype | fpuBtype => exact hasRow_of_op (c := .any) hk rfl (by decide)

theorem decode_error_of_no_row (h : ∀ r ∈ opcodeTable, r.selects w = false) : ∃ e, decode w = .error e := by
  cases hd : decode w with
  | error e => exact ⟨e, rfl⟩
  | ok i =>
    obtain ⟨r, hr, hw⟩ := hasRow_of_decode hd
    simp [h r hr] at hw

end Classes

/-- Settles O3: a selected word decodes to its row's reading, which fixes the mnemonic and with it the row, and a
decoded word has a row. -/
theorem everyWordSelectsOneRowOrIsIllegal : Obligations.EveryWordSelectsOneRowOrIsIllegal := by
  refine ⟨rfl, fun _ _ _ => Row.eq_of_selects, ?_, ?_, fun _ => decode_error_of_no_row⟩
  · intro w i hi
    obtain ⟨r, hr, hw⟩ := hasRow_of_decode hi
    obtain ⟨f, hf, hm, -⟩ := Row.exists_reading hr
    obtain rfl : f w = i := Except.ok.inj ((hf w hw).symm.trans hi)
    exact ⟨r, hr, hw, (hm w).symm⟩
  · intro w r hr hw
    obtain ⟨f, hf, hm, -⟩ := Row.exists_reading hr
    exact ⟨f w, hf w hw, hm w⟩

/-! ## The reason of a rejected word -/

section Reasons

variable {w : Word}

theorem decodeSop_error {low high : Reg → Reg → Reg → Instr} {other e : Reject}
    (h : decodeSop w low high other = .error e) : e = other := by
  unfold decodeSop at h
  split at h <;> cases h
  rfl

theorem decodeRType_divide {x : Reg} (h : decodeRType w = .error (.unrecognisedDivide x)) :
    (funcField w = 26#6 ∨ funcField w = 27#6) ∧ x = rtField w := by
  unfold decodeRType at h
  split at h
  case h_2 | h_5 => split at h <;> cases h
  case h_11 | h_12 => cases decodeSop_error h
  case h_13 hf => exact ⟨.inl hf, Reject.unrecognisedDivide.inj (decodeSop_error h)⟩
  case h_14 hf => exact ⟨.inr hf, Reject.unrecognisedDivide.inj (decodeSop_error h)⟩
  all_goals cases h

/-- The handlers other than SPECIAL's never test a divisor. -/
theorem rtype_of_decodeClass_divide {c : InstrClass} {x : Reg}
    (h : decodeClass w c = .error (.unrecognisedDivide x)) : c = .rtype := by
  cases c with
  | rtype => rfl
  | itype => simp only [decodeClass, decodeIType] at h; split at h <;> cases h
  | longimmItype => simp only [decodeClass, decodeLongImm] at h; split at h <;> cases h
  | jtype => simp only [decodeClass, decodeJType] at h; split at h <;> cases h
  | regimmItype => simp only [decodeClass, decodeRegimm] at h; split at h <;> cases h
  | special3Bshfl => simp only [decodeClass, decodeBshfl] at h; split at h <;> cases h
  | pcrelT1 => simp only [decodeClass, decodePcrel1] at h; split at h <;> cases h
  | pcrelT2 => simp only [decodeClass, decodePcrel2] at h; split at h <;> cases h
  | special3Ext | special3Ins | fpuRtype | fpuTtype | fpuBtype => cases h

theorem decode_divide {x : Reg} (h : decode w = .error (.unrecognisedDivide x)) :
    opField w = 0#6 ∧ (funcField w = 26#6 ∨ funcField w = 27#6) ∧ x = rtField w := by
  unfold decode at h
  split at h
  case h_1 => cases h
  case h_2 c hc =>
    obtain rfl := rtype_of_decodeClass_divide h
    exact ⟨classify_key hc, decodeRType_divide h⟩

theorem decode_error_of_sop (hop : opField w = 0#6) (hf : funcField w = 26#6 ∨ funcField w = 27#6) {e : Reject}
    (h : decode w = .error e) : e = .unrecognisedDivide (rtField w) := by
  simp only [decode, classify, hop, decodeClass] at h
  obtain hf | hf := hf <;> simp only [decodeRType, hf] at h <;> exact decodeSop_error h

theorem rejectReason_eq_divideByZero_iff (s : Machine.State) (e : Reject) :
    Machine.rejectReason s e = .divideByZero ↔ ∃ x, e = .unrecognisedDivide x ∧ s.reg x = 0#32 := by
  cases e with
  | decodeError | unrecognisedOp => simp [Machine.rejectReason]
  | unrecognisedDivide x => simp [Machine.rejectReason]

end Reasons

/-- Settles O11: the word is rejected, and only SOP32 and SOP33 are rejected by a divisor. -/
theorem illegalWordsFailTheStep : Obligations.IllegalWordsFailTheStep := by
  intro s w hw hr
  obtain ⟨e, he⟩ := decode_error_of_no_row hr
  obtain ⟨t, ht, hfail⟩ := Machine.failStep_fails (Machine.rejectReason s e) s
  refine ⟨t, _, (Machine.step_of_reject hw he).trans ht, hfail, Machine.rejectReason_cases s e, ?_⟩
  rw [rejectReason_eq_divideByZero_iff]
  constructor
  · rintro ⟨x, rfl, hx⟩
    obtain ⟨hop, hf, rfl⟩ := decode_divide he
    exact ⟨hop, hf, hx⟩
  · rintro ⟨hop, hf, hx⟩
    exact ⟨rtField w, decode_error_of_sop hop hf he, hx⟩

end Sys2Proof
end

section
/-! PROOFS. The step (spec/40_step.md): what it runs, that it always answers, and what a failing one leaves changed. -/

namespace Sys2Proof.Machine

/-! ## Failing steps -/

/-- An instruction that fails either stops after `update_pc()` or is a trap, and its reason is never FetchError. -/
theorem Effect.failure_cases {i : Instr} {s t : State} {r : FailReason} (h : Effect i s t)
    (ha : t.answer = .failure r) :
    (r ≠ .trap ∧ r ≠ .fetchError ∧ t = s.updatePc.withAnswer (.failure r)) ∨
    (r = .trap ∧ t = (s.updatePc.signalException .trap (encode i)).withAnswer (.failure .trap)) := by
  cases h with
  | nothing | result | arm | linkArm | jump | linkJump | link | store => cases ha
  | failure _ ht hf =>
    cases ha
    exact .inl ⟨ht, hf, rfl⟩
  | trap =>
    cases ha
    exact .inr ⟨rfl, rfl⟩

/-- What a step that answers false has done (R121, R123, R126): nothing, only `update_pc()`, or a trap. -/
theorem failing_step_cases {s t : State} {r : FailReason} (h : step s = .next t) (ha : t.answer = .failure r) :
    (r = .fetchError ∧ t = s.withAnswer (.failure .fetchError)) ∨
    (r ≠ .trap ∧ r ≠ .fetchError ∧ t = s.updatePc.withAnswer (.failure r)) ∨
    (r = .trap ∧ ∃ raw, t = (s.updatePc.signalException .trap raw).withAnswer (.failure .trap)) := by
  obtain ⟨-, rfl⟩ | ⟨_, e, -, -, rfl⟩ | ⟨_, i, -, -, -, he⟩ := step_cases h
  · cases ha
    exact .inl ⟨rfl, rfl⟩
  · cases ha
    obtain hr | hr | hr := rejectReason_cases s e <;> simp [hr]
  · obtain hfail | ⟨hr, ht⟩ := he.failure_cases ha
    · exact .inr (.inl hfail)
    · exact .inr (.inr ⟨hr, _, ht⟩)

/-- Settles O12: each of the three cases of `failing_step_cases` names the state, and its fields are read off. -/
theorem failingStepChangesOnlyPcDbtAndExc : Obligations.FailingStepChangesOnlyPcDbtAndExc := by
  intro s t r h ha
  obtain ⟨rfl, rfl⟩ | ⟨ht, hf, rfl⟩ | ⟨rfl, raw, rfl⟩ := failing_step_cases h ha
  · simp
  · simp [hf]
  · simp

/-! ## Every step answers -/

/-- An instruction never leaves the answer `idle`. -/
theorem Effect.answers {i : Instr} {s t : State} (h : Effect i s t) :
    t.answer = .success ∨ ∃ r, t.answer = .failure r := by
  cases h with
  | nothing | result | arm | linkArm | jump | linkJump | link | store => exact .inl rfl
  | failure | trap => exact .inr ⟨_, rfl⟩

/-- Settles O9: a failed fetch and a rejected word answer false, and every instruction answers (`exec_effect`). -/
theorem everyStepAnswers : Obligations.EveryStepAnswers := by
  intro s
  cases hf : s.fetch with
  | none => exact ⟨_, step_of_fetch_none hf, .inr ⟨_, rfl⟩⟩
  | some w =>
    cases hd : decode w with
    | error e => exact ⟨_, step_of_reject hf hd, .inr ⟨_, rfl⟩⟩
    | ok i =>
      obtain ⟨t, ht, he⟩ := exec_effect i s
      exact ⟨t, (step_of_decode hf hd).trans ht, he.answers⟩

/-! ## The fetch -/

@[simp] theorem withAnswer_fetch (s : State) (a : Answer) : (s.withAnswer a).fetch = s.fetch := rfl

/-- Settles O10: the fetch is the refused request, and the recorded answer changes no later fetch. -/
theorem fetchErrorChangesNothing : Obligations.FetchErrorChangesNothing := by
  intro s h
  have hf : s.fetch = none := (memRead_eq_none_iff s s.pc .word).2 h
  refine ⟨_, step_of_fetch_none hf, ?_⟩
  have again := step_of_fetch_none ((withAnswer_fetch s (.failure .fetchError)).trans hf)
  exact ⟨rfl, rfl, rfl, fun _ => rfl, .of_eq rfl rfl rfl, again⟩

/-- Settles O8: the fetch reads the word that the four bytes are (`memRead_of_readsAs`). -/
theorem stepRunsTheDecodedInstruction : Obligations.StepRunsTheDecodedInstruction := by
  intro s w i ha hm hr hd
  have hf : s.fetch = some w := memRead_of_readsAs (n := .word) ha hm hr
  exact step_of_decode hf hd

end Sys2Proof.Machine
end

section
/-! PROOFS. SPECIAL arithmetic, logic, shifts, rotates, compares, selects and counts
(spec/41_special_alu_shift.md): each writes one result, and what that result is in integers or bit by bit. -/

namespace Sys2Proof

/-- A word of `op = 0` is read by the SPECIAL handler (R99). -/
theorem decode_special {w : Word} (hop : opField w = 0#6) : decode w = decodeRType w := by
  simp [decode, classify, hop, decodeClass]

end Sys2Proof

namespace Sys2Proof.Machine

/-- The form of every instruction here: it writes one result, and of that result `P` holds. Each meaning is
`writeResult` by definition, so `exec` of the instruction is one too. -/
theorem writeResult_writes_with {P : Word → Prop} {rd : Reg} {v : Word} {s : State} (hv : P v) :
    ∃ t u, writeResult rd v s = .next t ∧ WritesReg s t rd u ∧ P u := by
  obtain ⟨t, h, ht⟩ := writeResult_writes rd v s
  exact ⟨t, v, h, ht, hv⟩

/-! ## Sums and differences -/

theorem natCast_toNat_sub (a b : Word) : ((a - b).toNat : Int) = ((a.toNat : Int) - b.toNat) % 2 ^ 32 := by
  rw [BitVec.toNat_sub]
  omega

/-- Settles O27: the results are the sum and the difference of words, modulo 2^32. -/
theorem addAndSubtractWrap : Obligations.AddAndSubtractWrap := by
  refine ⟨fun w hop => ?_, fun s rd rs rt => ⟨?add, ?addu, ?sub, ?subu⟩⟩
  · simp +contextual [decode_special hop, decodeRType]
  case add | addu => exact writeResult_writes_with (BitVec.toNat_add _ _)
  case sub | subu => exact writeResult_writes_with (natCast_toNat_sub _ _)

/-! ## Bitwise logic -/

theorem getLsbD_nor (a b : Word) {k : Nat} (hk : k < 32) :
    (~~~(a ||| b)).getLsbD k = !(a.getLsbD k || b.getLsbD k) := by
  rw [BitVec.getLsbD_not, BitVec.getLsbD_or, decide_eq_true hk, Bool.true_and]

/-- Settles O28: the word operators act bit by bit. -/
theorem bitwiseLogic : Obligations.BitwiseLogic := by
  refine ⟨fun w hop => ?_, fun s rd rs rt => ⟨?and, ?or, ?xor, ?nor⟩⟩
  · simp +contextual [decode_special hop, decodeRType]
  case and => exact writeResult_writes_with fun _ _ => BitVec.getLsbD_and
  case or => exact writeResult_writes_with fun _ _ => BitVec.getLsbD_or
  case xor => exact writeResult_writes_with fun _ _ => BitVec.getLsbD_xor
  case nor => exact writeResult_writes_with fun _ => getLsbD_nor _ _

/-! ## Logical shifts -/

theorem toNat_shiftLeft_eq (v : Word) (n : Nat) : (v <<< n).toNat = v.toNat * 2 ^ n % 2 ^ 32 := by
  rw [BitVec.toNat_shiftLeft, Nat.shiftLeft_eq]

theorem toNat_shiftRight_eq (v : Word) (n : Nat) : (v >>> n).toNat = v.toNat / 2 ^ n := by
  rw [BitVec.toNat_ushiftRight, Nat.shiftRight_eq_div_pow]

/-- Settles O29: a shift multiplies or divides by a power of 2, and a variable amount is `x[rs]` modulo 32. -/
theorem logicalShifts : Obligations.LogicalShifts := by
  refine ⟨fun w hop => ?_, fun s rd rt rs shamt => ?_⟩
  · simp +contextual [decode_special hop, decodeRType]
  · rw [← shiftAmount_eq]
    exact ⟨writeResult_writes_with (toNat_shiftLeft_eq _ _), writeResult_writes_with (toNat_shiftLeft_eq _ _),
      writeResult_writes_with (toNat_shiftRight_eq _ _), writeResult_writes_with (toNat_shiftRight_eq _ _)⟩

/-! ## Arithmetic shifts -/

/-- The fill is the sign at the `n` top bits and 0 below them (R150). -/
theorem getElem_signFill (v : Word) (n : Nat) {k : Nat} (hk : k < 32) :
    (signFill v n)[k] = (v.msb && !decide (n + k < 32)) := by
  unfold signFill
  cases v.msb
  · exact BitVec.getElem_zero hk
  · simp only [if_true, BitVec.getElem_not, BitVec.getElem_ushiftRight, BitVec.getLsbD_allOnes, Bool.true_and]

theorem arithShiftRight_eq_sshiftRight (v : Word) (n : Nat) : arithShiftRight v n = v.sshiftRight n := by
  ext k hk
  rw [BitVec.getElem_sshiftRight, arithShiftRight, BitVec.getElem_or, BitVec.getElem_ushiftRight,
    getElem_signFill v n hk]
  by_cases hnk : n + k < 32
  · simp [hnk]
  · have hout : v.getLsbD (n + k) = false := BitVec.getLsbD_of_ge v _ (by omega)
    simp [hnk, hout]

theorem toInt_arithShiftRight (v : Word) (n : Nat) : (arithShiftRight v n).toInt = v.toInt / 2 ^ n := by
  rw [arithShiftRight_eq_sshiftRight, BitVec.toInt_sshiftRight, Int.shiftRight_eq_div_pow]
  norm_cast

/-- Settles O30: an arithmetic shift is the floor division by a power of 2 (`toInt_arithShiftRight`). -/
theorem arithmeticShifts : Obligations.ArithmeticShifts := by
  refine ⟨fun w hop => ?_, fun s rd rt rs shamt => ?_⟩
  · simp +contextual [decode_special hop, decodeRType]
  · rw [← shiftAmount_eq]
    exact ⟨writeResult_writes_with (toInt_arithShiftRight _ _),
      writeResult_writes_with (toInt_arithShiftRight _ _)⟩

/-! ## Rotates -/

theorem getLsbD_rotateRight (v : Word) {n k : Nat} (hn : n < 32) (hk : k < 32) :
    (rotateRight v n).getLsbD k = v.getLsbD ((k + n) % 32) := by
  unfold rotateRight
  split
  case isTrue h => rw [h, Nat.add_zero, Nat.mod_eq_of_lt hk]
  case isFalse h =>
    rw [BitVec.getLsbD_or, BitVec.getLsbD_ushiftRight, BitVec.getLsbD_shiftLeft]
    by_cases hkn : k + n < 32
    · have hlow : k < 32 - n := by omega
      simp [hlow, Nat.mod_eq_of_lt hkn, Nat.add_comm n k]
    · have hhigh : ¬k < 32 - n := by omega
      have hwrap : (k + n) % 32 = k - (32 - n) := by omega
      have hout : v.getLsbD (n + k) = false := BitVec.getLsbD_of_ge v _ (by omega)
      simp [hhigh, hwrap, hout, hk]

/-- Settles O31: bit `k` of the rotated word, whichever part it comes from (`getLsbD_rotateRight`). -/
theorem rotates : Obligations.Rotates := by
  refine ⟨fun w hop => ?_, fun s rd rt rs shamt => ?_⟩
  · simp +contextual [decode_special hop, decodeRType]
  · rw [← shiftAmount_eq]
    exact ⟨writeResult_writes_with fun _ => getLsbD_rotateRight _ shamt.isLt,
      writeResult_writes_with fun _ => getLsbD_rotateRight _ (shiftAmount_lt _)⟩

/-! ## Compares and selects -/

theorem boolWord_ltSigned (a b : Word) : boolWord (ltSigned a b) = if a.toInt < b.toInt then 1#32 else 0#32 := by
  simp only [boolWord, ltSigned_iff]

theorem boolWord_ltUnsigned (a b : Word) : boolWord (ltUnsigned a b) = if a.toNat < b.toNat then 1#32 else 0#32 := by
  simp only [boolWord, ltUnsigned_iff]

/-- Settles O32: the comparisons are those of the integers, and a word is 0 when its integer is. -/
theorem compareAndSelect : Obligations.CompareAndSelect := by
  refine ⟨fun w hop => ?_, fun s rd rs rt => ?_⟩
  · simp +contextual [decode_special hop, decodeRType]
  · have hzero : (s.reg rt).toNat = 0 ↔ s.reg rt = 0#32 := BitVec.toNat_inj (y := 0#32)
    simp only [← boolWord_ltSigned, ← boolWord_ltUnsigned, hzero]
    exact ⟨writeResult_writes rd _ s, writeResult_writes rd _ s, writeResult_writes rd _ s,
      writeResult_writes rd _ s⟩

/-! ## Counts -/

/-- The counted run fits the result register: it is at most 32. -/
theorem toNat_ofNat_leadingRun (b : Bool) (v : Word) :
    (BitVec.ofNat 32 (leadingRun b v 32)).toNat = leadingRun b v 32 := by
  rw [BitVec.toNat_ofNat, Nat.mod_eq_of_lt]
  have := (leadingRun_spec b v 32).1
  omega

theorem toNat_countLeadingZeros (v : Word) : (countLeadingZeros v).toNat = leadingRun false v 32 :=
  toNat_ofNat_leadingRun false v

theorem toNat_countLeadingOnes (v : Word) : (countLeadingOnes v).toNat = leadingRun true v 32 :=
  toNat_ofNat_leadingRun true v

/-- Settles O33: the run the model counts ends where the statement says (`leadingRun_spec`). -/
theorem countLeadingBits : Obligations.CountLeadingBits := by
  refine ⟨fun w hop => ?_, fun s rd rs => ⟨?clz, ?clo⟩⟩
  · simp +contextual [decode_special hop, decodeRType]
  case clz =>
    have hrun := leadingRun_spec false (s.reg rs) 32
    rw [← toNat_countLeadingZeros] at hrun
    exact writeResult_writes_with hrun
  case clo =>
    have hrun := leadingRun_spec true (s.reg rs) 32
    rw [← toNat_countLeadingOnes] at hrun
    exact writeResult_writes_with hrun

end Sys2Proof.Machine
end

section
/-! PROOFS. SPECIAL multiply, divide, register jumps and traps (spec/42_special_muldiv_jump_trap.md): the two words of
a product, quotient and remainder on integers, and what a conditional trap does either way. -/

namespace Sys2Proof.Machine

/-! ## Products -/

/-- A signed product of two words fits 64 bits, so `mul64s` is exact (R180). -/
theorem toInt_mul64s (a b : Word) : (mul64s a b).toInt = a.toInt * b.toInt := by
  have hlo : -2 ^ 62 ≤ a.toInt * b.toInt := BitVec.le_toInt_mul_toInt
  have hhi : a.toInt * b.toInt ≤ 2 ^ 62 := BitVec.toInt_mul_toInt_le
  exact BitVec.toInt_ofInt_eq_self (by decide) (by omega) (by omega)

/-- An unsigned product of two words fits 64 bits, so `mul64u` is exact (R180). -/
theorem toNat_mul64u (a b : Word) : (mul64u a b).toNat = a.toNat * b.toNat := by
  have hlt : a.toNat * b.toNat < 2 ^ 64 := BitVec.toNat_mul_toNat_lt
  rw [mul64u, BitVec.toNat_ofNat, Nat.mod_eq_of_lt hlt]

theorem toNat_lowWord (p : BitVec 64) : (lowWord p).toNat = p.toNat % 2 ^ 32 := by
  rw [lowWord, BitVec.extractLsb'_toNat, Nat.shiftRight_zero]

theorem toNat_highWord (p : BitVec 64) : (highWord p).toNat = p.toNat / 2 ^ 32 := by
  rw [highWord, BitVec.extractLsb'_toNat, Nat.shiftRight_eq_div_pow]
  omega

/-- The low word is the residue of the signed reading too: the two readings differ by a multiple of 2^64. -/
theorem natCast_toNat_lowWord (p : BitVec 64) : ((lowWord p).toNat : Int) = p.toInt % 2 ^ 32 := by
  rw [toNat_lowWord, BitVec.toInt_eq_toNat_cond]
  split <;> omega

/-- The high word has the sign bit of the product, so its signed reading is the floor quotient by 2^32. -/
theorem toInt_highWord (p : BitVec 64) : (highWord p).toInt = p.toInt / 2 ^ 32 := by
  rw [BitVec.toInt_eq_toNat_cond, BitVec.toInt_eq_toNat_cond, toNat_highWord]
  split <;> split <;> omega

/-- Settles O34: the products are exact in 64 bits, and each instruction writes one word of them. -/
theorem multiplyLowAndHigh : Obligations.MultiplyLowAndHigh := by
  refine ⟨fun w hop => ?_, fun s rd rs rt => ?_⟩
  · simp +contextual [decode_special hop, decodeRType, decodeSop]
  · simp only [← toInt_mul64s, ← toNat_mul64u]
    exact ⟨writeResult_writes_with (natCast_toNat_lowWord _), writeResult_writes_with (toInt_highWord _),
      writeResult_writes_with (toNat_lowWord _), writeResult_writes_with (toNat_highWord _)⟩

/-! ## Quotients and remainders -/

section
variable {a b : Word} (o : DivOverflow)

/-- But for the one overflow, the truncated quotient fits a word (R185). -/
theorem toInt_signedQuotient (h : ¬(a.toInt = -2 ^ 31 ∧ b.toInt = -1)) :
    (signedQuotient o a b).toInt = a.toInt.tdiv b.toInt := by
  have hfits : a ≠ BitVec.intMin 32 ∨ b ≠ -1#32 := by
    rw [← not_and_or]
    rintro ⟨rfl, rfl⟩
    exact h (by decide)
  rw [signedQuotient, if_neg (mt (divisionOverflows_iff a b).1 h), ← BitVec.toInt_sdiv_of_ne_or_ne a b hfits,
    BitVec.ofInt_toInt]

/-- A truncated remainder always fits a word (R186). -/
theorem toInt_signedRemainder (h : ¬(a.toInt = -2 ^ 31 ∧ b.toInt = -1)) :
    (signedRemainder o a b).toInt = a.toInt.tmod b.toInt := by
  rw [signedRemainder, if_neg (mt (divisionOverflows_iff a b).1 h), ← BitVec.toInt_srem, BitVec.ofInt_toInt]

theorem signedQuotient_overflow (ha : a.toInt = -2 ^ 31) (hb : b.toInt = -1) :
    signedQuotient o a b = o.quotient :=
  if_pos ((divisionOverflows_iff a b).2 ⟨ha, hb⟩)

theorem signedRemainder_overflow (ha : a.toInt = -2 ^ 31) (hb : b.toInt = -1) :
    signedRemainder o a b = o.remainder :=
  if_pos ((divisionOverflows_iff a b).2 ⟨ha, hb⟩)

end

/-- What truncation toward zero says of the remainder: smaller than the divisor, and of the dividend's sign (D9). -/
theorem tmod_spec (x : Int) {y : Int} (hy : y ≠ 0) :
    (x.tmod y).natAbs < y.natAbs ∧ (0 ≤ x → 0 ≤ x.tmod y) ∧ (x ≤ 0 → x.tmod y ≤ 0) := by
  refine ⟨?_, Int.tmod_nonneg y, fun hx => ?_⟩
  · rw [Int.natAbs_tmod]
    exact Nat.mod_lt _ (Int.natAbs_pos.2 hy)
  · have := Int.tmod_nonneg y (Int.neg_nonneg_of_nonpos hx)
    rw [Int.neg_tmod] at this
    omega

/-- Settles O35: quotient and remainder are those of truncated integer division, but for `DIV_OVF`. -/
theorem signedDivision : Obligations.SignedDivision := by
  refine ⟨fun w hop hf => ?_, fun s rd rs rt => ⟨fun h0 => ?zero, fun h0 hov => ?fits, fun ha hb => ?overflow⟩⟩
  · simp +contextual [decode_special hop, decodeRType, decodeSop, hf]
  case zero => exact ⟨divideInto_zero rd _ s h0, divideInto_zero rd _ s h0⟩
  case fits =>
    obtain ⟨t, hdiv, hq⟩ := divideInto_nonzero rd (signedQuotient s.config.divOverflow (s.reg rs) (s.reg rt)) s h0
    obtain ⟨u, hmod, hr⟩ := divideInto_nonzero rd (signedRemainder s.config.divOverflow (s.reg rs) (s.reg rt)) s h0
    refine ⟨t, u, _, _, hdiv, hq, hmod, hr, ?_⟩
    rw [toInt_signedQuotient _ hov, toInt_signedRemainder _ hov]
    exact ⟨(Int.tdiv_mul_add_tmod _ _).symm, tmod_spec _ (mt (BitVec.toInt_inj (y := 0#32)).1 h0)⟩
  case overflow =>
    have h0 : s.reg rt ≠ 0#32 := fun h => by simp [h] at hb
    rw [← signedQuotient_overflow _ ha hb, ← signedRemainder_overflow s.config.divOverflow ha hb]
    exact ⟨divideInto_nonzero rd _ s h0, divideInto_nonzero rd _ s h0⟩

theorem toNat_unsignedQuotient (a b : Word) : (unsignedQuotient a b).toNat = a.toNat / b.toNat := by
  rw [unsignedQuotient, BitVec.toNat_ofNat, Nat.mod_eq_of_lt]
  exact (Nat.div_le_self _ _).trans_lt a.isLt

theorem toNat_unsignedRemainder (a b : Word) : (unsignedRemainder a b).toNat = a.toNat % b.toNat := by
  rw [unsignedRemainder, BitVec.toNat_ofNat, Nat.mod_eq_of_lt]
  exact (Nat.mod_le _ _).trans_lt a.isLt

/-- A division by a nonzero divisor writes one result, and of that result `P` holds. -/
theorem divideInto_writes_with {P : Word → Prop} {rd : Reg} {d v : Word} {s : State} (hd : d ≠ 0#32) (hv : P v) :
    ∃ t u, divideInto rd d v s = .next t ∧ WritesReg s t rd u ∧ P u := by
  obtain ⟨t, h, ht⟩ := divideInto_nonzero rd v s hd
  exact ⟨t, v, h, ht, hv⟩

/-- Settles O36: an unsigned quotient or remainder always fits a word. -/
theorem unsignedDivision : Obligations.UnsignedDivision := by
  refine ⟨fun w hop hf => ?_, fun s rd rs rt => ⟨fun h0 => ?zero, fun h0 => ?nonzero⟩⟩
  · simp +contextual [decode_special hop, decodeRType, decodeSop, hf]
  case zero => exact ⟨divideInto_zero rd _ s h0, divideInto_zero rd _ s h0⟩
  case nonzero =>
    exact ⟨divideInto_writes_with h0 (toNat_unsignedQuotient _ _),
      divideInto_writes_with h0 (toNat_unsignedRemainder _ _)⟩

/-! ## Register jumps -/

/-- Settles O37: the target is `x[rs]` of the state before the step, so the link cannot change it. -/
theorem registerJumps : Obligations.RegisterJumps := by
  refine ⟨fun w hop => ?_, fun s rs =>
    ⟨branchDelayed_transfers true (s.reg rs) s, jumpDelayedLink_transfers (s.reg rs) s⟩⟩
  simp +contextual [decode_special hop, decodeRType]

/-! ## Conditional traps -/

/-- A trap instruction keeps every bit of its word: its fields rebuild it, the code bits 15..6 included (R202). -/
theorem trapWord_fields {w : Word} {func : BitVec 6} (hop : opField w = 0#6) (hf : funcField w = func) :
    trapWord (rsField w) (rtField w) (codeField w) func = w := by
  subst hf
  rw [trapWord, ← hop]
  change w.extractLsb' 26 6 ++ w.extractLsb' 21 5 ++ w.extractLsb' 16 5 ++ w.extractLsb' 6 10 ++
    w.extractLsb' 0 6 = w
  repeat rw [BitVec.extractLsb'_append_extractLsb'_eq_extractLsb' (by rfl)]
  exact BitVec.extractLsb'_eq_self

/-- A conditional trap whose test says `p`: it traps on the word when `p` holds, and does nothing when `q`, which
excludes `p`, does. -/
theorem trapIf_traps_or_transfers {c : Bool} {p q : Prop} (raw : Word) (s : State) (hp : c = true ↔ p)
    (hq : q → ¬p) :
    ∃ t, trapIf c raw s = .next t ∧ (p → Traps s t raw) ∧ (q → Transfers s t s.updatedPc none) := by
  obtain ⟨t, h, htrap, hpass⟩ := trapIf_effect c raw s
  exact ⟨t, h, fun hh => htrap (hp.2 hh), fun hh => hpass (Bool.eq_false_iff.2 (mt hp.1 (hq hh)))⟩

/-- Settles O38: each test says its comparison of the register values, and the fields rebuild the word. -/
theorem conditionalTraps : Obligations.ConditionalTraps := by
  refine ⟨fun w hop => ?_, fun s rs rt code => ⟨?teq, ?tne, ?tge, ?tgeu, ?tlt, ?tltu⟩⟩
  · simp +contextual [decode_special hop, decodeRType, encode, trapWord_fields hop]
  case teq => exact trapIf_traps_or_transfers _ s (beq_iff_eq.trans BitVec.toNat_inj.symm) id
  case tne => exact trapIf_traps_or_transfers _ s (bne_iff_ne.trans BitVec.toNat_inj.symm.not) not_not_intro
  case tge => exact trapIf_traps_or_transfers _ s (geSigned_iff _ _) not_le_of_gt
  case tgeu => exact trapIf_traps_or_transfers _ s (geUnsigned_iff _ _) not_le_of_gt
  case tlt => exact trapIf_traps_or_transfers _ s (ltSigned_iff _ _) not_lt_of_ge
  case tltu => exact trapIf_traps_or_transfers _ s (ltUnsigned_iff _ _) not_lt_of_ge

end Sys2Proof.Machine
end

section
/-! PROOFS. I-type arithmetic and logic, BEQ and BNE (spec/43_itype_alu_branch.md): the immediate as an integer or bit
by bit, and what a legacy conditional branch does either way. -/

namespace Sys2Proof

/-- A word of class I is read by the I-type handler (R98, R124). -/
theorem decode_itype {w : Word} (hc : classify w = some .itype) : decode w = decodeIType w := by
  simp only [decode, hc, decodeClass]

end Sys2Proof

namespace Sys2Proof.Machine

/-! ## Immediates -/

/-- Bits 31..16 of a zero-extended immediate are 0, as `getLsbD` reads them from the immediate itself (R94). -/
theorem getLsbD_zext16 (imm : BitVec 16) {k : Nat} (hk : k < 32) : (zext16 imm).getLsbD k = imm.getLsbD k := by
  rw [zext16, BitVec.getLsbD_setWidth, decide_eq_true hk, Bool.true_and]

/-- The immediate in the upper half is its value times 2^16 (R97). -/
theorem upperImm_eq (imm : BitVec 16) : upperImm imm = BitVec.ofNat 32 (imm.toNat * 2 ^ 16) := by
  apply BitVec.eq_of_toNat_eq
  have hfits : imm.toNat * 2 ^ 16 < 2 ^ 32 := by omega
  rw [upperImm, BitVec.toNat_append, BitVec.toNat_zero, Nat.or_zero, Nat.shiftLeft_eq, BitVec.toNat_ofNat,
    Nat.mod_eq_of_lt hfits]

theorem add_upperImm (base : Word) (imm : BitVec 16) : base + upperImm imm = relTarget base (imm.toNat * 2 ^ 16) := by
  rw [relTarget_eq, upperImm_eq, ← BitVec.ofInt_natCast]
  norm_cast

/-- Sign extension keeps the signed value (R91). -/
theorem toInt_sext16 (imm : BitVec 16) : (sext16 imm).toInt = imm.toInt :=
  BitVec.toInt_signExtend_of_le (by decide)

/-- The unsigned value of a sign-extended immediate is its signed value modulo 2^32 (R216). -/
theorem natCast_toNat_sext16 (imm : BitVec 16) : ((sext16 imm).toNat : Int) = imm.toInt % 2 ^ 32 := by
  rw [sext16_eq, BitVec.toNat_ofInt]
  omega

/-! ## Arithmetic and logic -/

/-- Settles O39: `ADDIU` writes the sum with the signed immediate, the others act bit by bit on the zero-extended
one. -/
theorem immediateArithmeticAndLogic : Obligations.ImmediateArithmeticAndLogic := by
  refine ⟨fun w => ?_, fun s rt rs imm => ⟨?addiu, ?andi, ?ori, ?xori⟩⟩
  · simp +contextual [decode_itype, classify, decodeIType]
  case addiu =>
    rw [← add_sext16]
    exact writeResult_writes rt _ s
  case andi => exact writeResult_writes_with fun k hk => by rw [BitVec.getLsbD_and, getLsbD_zext16 imm hk]
  case ori => exact writeResult_writes_with fun k hk => by rw [BitVec.getLsbD_or, getLsbD_zext16 imm hk]
  case xori => exact writeResult_writes_with fun k hk => by rw [BitVec.getLsbD_xor, getLsbD_zext16 imm hk]

/-- Settles O40: the immediate in the upper half is its value times 2^16 (`upperImm_eq`). -/
theorem addUpperImmediate : Obligations.AddUpperImmediate := by
  refine ⟨fun w hop => ?_, fun s rt rs imm => ?_⟩
  · simp [decode_itype, classify, decodeIType, hop]
  · rw [← add_upperImm]
    exact writeResult_writes rt _ s

/-! ## Compares -/

/-- Settles O41: both compare with the sign-extended immediate, whose signed and unsigned values are known. -/
theorem immediateCompares : Obligations.ImmediateCompares := by
  refine ⟨fun w => ?_, fun s rt rs imm => ⟨?slti, ?sltiu⟩⟩
  · simp +contextual [decode_itype, classify, decodeIType]
  case slti =>
    rw [← toInt_sext16, ← boolWord_ltSigned]
    exact writeResult_writes rt _ s
  case sltiu =>
    simp only [← natCast_toNat_sext16, Nat.cast_lt, ← boolWord_ltUnsigned]
    exact writeResult_writes rt _ s

/-! ## Branches -/

/-- A legacy conditional branch whose test says `p`: when `p` holds it arms the slot with its target, as many words
from `cpc` as the signed offset says (R95), and when not it does nothing. -/
theorem branchDelayed_transfers_iff {c : Bool} {p : Prop} [Decidable p] (imm : BitVec 16) (s : State)
    (hc : c = true ↔ p) :
    ∃ t, branchDelayed c (branchTarget s.cpc imm) s = .next t ∧
      Transfers s t s.updatedPc (if p then some (relTarget s.updatedPc (4 * imm.toInt)) else none) := by
  rw [branchTarget_eq, cpc_eq]
  simpa only [hc] using branchDelayed_transfers c (relTarget s.updatedPc (4 * imm.toInt)) s

/-- Settles O42: each test says its comparison of the register values. -/
theorem equalityBranches : Obligations.EqualityBranches := by
  refine ⟨fun w => ?_, fun s rs rt imm => ⟨?beq, ?bne⟩⟩
  · simp +contextual [decode_itype, classify, decodeIType]
  case beq => exact branchDelayed_transfers_iff imm s (beq_iff_eq.trans BitVec.toNat_inj.symm)
  case bne =>
    rw [← ite_not]
    exact branchDelayed_transfers_iff imm s (bne_iff_ne.trans BitVec.toNat_inj.symm.not)

end Sys2Proof.Machine
end

section
/-! PROOFS. The branches on a sign, the compact branches and jumps of the POP families, and the POP26 and POP27 no-ops
(spec/44_pop_compact.md, spec/47_regimm.md): where a branch goes either way, and when a signed sum overflows. -/

namespace Sys2Proof

/-- A word of `op = 1` is read by the REGIMM handler (R100). -/
theorem decode_regimm {w : Word} (hop : opField w = 1#6) : decode w = decodeRegimm w := by
  simp only [decode, classify, hop, decodeClass]

/-- The words of POP06, POP07, POP10, POP26, POP27 and POP30 are I-type words, each family with its own reading (R98). -/
theorem decode_pop (w : Word) :
    (opField w = 6#6 → decode w = .ok (decodePop06 w)) ∧ (opField w = 7#6 → decode w = .ok (decodePop07 w)) ∧
    (opField w = 8#6 → decode w = .ok (decodePop10 w)) ∧ (opField w = 22#6 → decode w = .ok (decodePop26 w)) ∧
    (opField w = 23#6 → decode w = .ok (decodePop27 w)) ∧ (opField w = 24#6 → decode w = .ok (decodePop30 w)) := by
  simp +contextual [decode_itype, classify, decodeIType]

/-- Of a POP66 or POP76 word the field `rs` chooses the handler: JIC and JIALC are I-type words (R260, R263). -/
theorem decode_pop66_pop76 {w : Word} (hop : opField w = 54#6 ∨ opField w = 62#6) :
    decode w = if rsField w = 0 then decodeIType w else decodeLongImm w := by
  have hc : classify w = some (if rsField w = 0 then .itype else .longimmItype) := by
    obtain h | h := hop <;> simp only [classify, h]
  simp only [decode, hc]
  split <;> rfl

end Sys2Proof

namespace Sys2Proof.Machine

/-! ## Where a compact branch goes -/

/-- The target of a branch, as many words from `cpc` as its signed offset says (R95). -/
theorem branchTarget_cpc (s : State) (imm : BitVec 16) :
    branchTarget s.cpc imm = relTarget s.updatedPc (4 * imm.toInt) := by
  rw [branchTarget_eq, cpc_eq]

/-- The target of BEQZC and BNEZC, whose offset has 21 bits (R262, R265). -/
theorem branchTarget21_cpc (s : State) (imm21 : BitVec 21) :
    branchTarget21 s.cpc imm21 = relTarget s.updatedPc (4 * imm21.toInt) := by
  rw [branchTarget21_eq, cpc_eq]

section
variable {c : Bool} {p : Prop} [Decidable p] (T : Word) (s : State)

/-- A compact branch whose test says `p` sets `pc` to its target when `p` holds, and leaves it `cpc` when not. -/
theorem branchCompact_transfers_iff (hc : c = true ↔ p) :
    ∃ t, branchCompact c T s = .next t ∧ Transfers s t (if p then T else s.updatedPc) none := by
  simpa only [hc] using branchCompact_transfers c T s

/-- A compact branch whose test says that `p` fails. -/
theorem branchCompact_transfers_iff_not (hc : c = true ↔ ¬p) :
    ∃ t, branchCompact c T s = .next t ∧ Transfers s t (if p then s.updatedPc else T) none := by
  rw [← ite_not]
  exact branchCompact_transfers_iff T s hc

/-- A linking compact branch whose test says `p`: it links either way. -/
theorem branchCompactLink_transfers_iff (hc : c = true ↔ p) :
    ∃ t, branchCompactLink c T s = .next t ∧ TransfersLinking s t (if p then T else s.updatedPc) none := by
  simpa only [hc] using branchCompactLink_transfers c T s

/-- A linking compact branch whose test says that `p` fails. -/
theorem branchCompactLink_transfers_iff_not (hc : c = true ↔ ¬p) :
    ∃ t, branchCompactLink c T s = .next t ∧ TransfersLinking s t (if p then s.updatedPc else T) none := by
  rw [← ite_not]
  exact branchCompactLink_transfers_iff T s hc

end

/-! ## Equality tests on integers -/

theorem beq_iff_toNat_eq (a b : Word) : (a == b) = true ↔ a.toNat = b.toNat :=
  beq_iff_eq.trans BitVec.toNat_inj.symm

theorem beq_iff_toInt_eq (a b : Word) : (a == b) = true ↔ a.toInt = b.toInt :=
  beq_iff_eq.trans BitVec.toInt_inj.symm

theorem bne_iff_toNat_ne (a b : Word) : (a != b) = true ↔ ¬a.toNat = b.toNat :=
  bne_iff_ne.trans BitVec.toNat_inj.symm.not

theorem bne_iff_toInt_ne (a b : Word) : (a != b) = true ↔ ¬a.toInt = b.toInt :=
  bne_iff_ne.trans BitVec.toInt_inj.symm.not

/-! ## Legacy branches on a sign -/

/-- Settles O43: each test says its comparison with 0. -/
theorem signBranches : Obligations.SignBranches := by
  refine ⟨fun w => ?_, fun s rs imm =>
    ⟨branchDelayed_transfers_iff imm s (leZero_iff _), branchDelayed_transfers_iff imm s (gtZero_iff _),
      branchDelayed_transfers_iff imm s (ltZero_iff _), branchDelayed_transfers_iff imm s (geZero_iff _)⟩⟩
  simp +contextual [decode_pop, decodePop06, decodePop07, decode_regimm, decodeRegimm]

/-! ## Compact branches -/

/-- Settles O44: the test is of `x[rt]` before the step, so the link cannot change it. -/
theorem linkingCompactBranches : Obligations.LinkingCompactBranches := by
  refine ⟨fun w hrt => ?_, fun s rt imm => ?_⟩
  · simp +contextual [decode_pop, decodePop06, decodePop07, decodePop10, decodePop30, hrt]
  · rw [← branchTarget_cpc]
    exact ⟨branchCompactLink_transfers_iff _ s (leZero_iff _), branchCompactLink_transfers_iff _ s (geZero_iff _),
      branchCompactLink_transfers_iff _ s (gtZero_iff _), branchCompactLink_transfers_iff _ s (ltZero_iff _),
      branchCompactLink_transfers_iff _ s (beq_iff_toInt_eq _ 0#32),
      branchCompactLink_transfers_iff_not _ s (bne_iff_toInt_ne _ 0#32)⟩

/-- Settles O45: each test says its comparison of the register values. -/
theorem twoRegisterCompactBranches : Obligations.TwoRegisterCompactBranches := by
  refine ⟨fun w hrs hrt => ⟨fun hne => ?_, fun hlt => ?_⟩, fun s rs rt imm => ?_⟩
  · simp +contextual [decode_pop, decodePop06, decodePop07, decodePop26, decodePop27, hrs, hrt, hne]
  · simp +contextual [decode_pop, decodePop10, decodePop30, hrs, hlt]
  · rw [← branchTarget_cpc]
    exact ⟨branchCompact_transfers_iff _ s (geUnsigned_iff _ _), branchCompact_transfers_iff _ s (ltUnsigned_iff _ _),
      branchCompact_transfers_iff _ s (beq_iff_toNat_eq _ _),
      branchCompact_transfers_iff_not _ s (bne_iff_toNat_ne _ _),
      branchCompact_transfers_iff _ s (geSigned_iff _ _), branchCompact_transfers_iff _ s (ltSigned_iff _ _)⟩

/-- Settles O46: each test says its comparison with 0, and a no-op only runs `update_pc()`. -/
theorem oneRegisterCompactBranchesAndNoOps : Obligations.OneRegisterCompactBranchesAndNoOps := by
  refine ⟨fun w => ?_, fun s rt imm => ?_⟩
  · simp +contextual [decode_pop, decodePop26, decodePop27]
  · rw [← branchTarget_cpc]
    exact ⟨branchCompact_transfers_iff _ s (leZero_iff _), branchCompact_transfers_iff _ s (geZero_iff _),
      branchCompact_transfers_iff _ s (gtZero_iff _), branchCompact_transfers_iff _ s (ltZero_iff _),
      doNothing_transfers s, doNothing_transfers s⟩

/-! ## Overflow of a signed sum (R245) -/

/-- The sum of two words is exact in 33 bits. -/
theorem toInt_signExtend33_add (a b : Word) : (a.signExtend 33 + b.signExtend 33).toInt = a.toInt + b.toInt := by
  have ha := a.le_toInt
  have ha' := a.toInt_lt
  have hb := b.le_toInt
  have hb' := b.toInt_lt
  rw [BitVec.toInt_add, BitVec.toInt_signExtend_of_le (by decide), BitVec.toInt_signExtend_of_le (by decide)]
  exact Int.bmod_eq_of_le (by omega) (by omega)

/-- The two top bits of 33 differ exactly when the value needs all 33 bits. -/
theorem top_bits_differ_iff (v : BitVec 33) :
    (v.getLsbD 32 != v.getLsbD 31) = true ↔ v.toInt < -2 ^ 31 ∨ 2 ^ 31 ≤ v.toInt := by
  rw [bne_iff_ne, ← BitVec.testBit_toNat, ← BitVec.testBit_toNat, Nat.testBit_eq_decide_div_mod_eq,
    Nat.testBit_eq_decide_div_mod_eq, BitVec.toInt_eq_toNat_cond, ne_eq, decide_eq_decide]
  split <;> omega

/-- The model tests by form (ii), bit 32 of the extended sum against bit 31; on integers that is R245's definition. -/
theorem addOverflows_iff (a b : Word) :
    addOverflows a b = true ↔ a.toInt + b.toInt < -2 ^ 31 ∨ 2 ^ 31 ≤ a.toInt + b.toInt := by
  rw [← toInt_signExtend33_add]
  exact top_bits_differ_iff _

theorem not_addOverflows_iff (a b : Word) :
    (!addOverflows a b) = true ↔ ¬(a.toInt + b.toInt < -2 ^ 31 ∨ 2 ^ 31 ≤ a.toInt + b.toInt) := by
  rw [← addOverflows_iff, Bool.not_eq_true', Bool.not_eq_true]

/-- The test is the library's signed overflow. -/
theorem addOverflows_eq_saddOverflow (a b : Word) : addOverflows a b = a.saddOverflow b := by
  rw [Bool.eq_iff_iff, addOverflows_iff, BitVec.saddOverflow, Bool.or_eq_true, decide_eq_true_iff,
    decide_eq_true_iff, or_comm]

/-- Operands of one sign and a sum of the other, form (i). -/
theorem addOverflows_iff_msb (a b : Word) : addOverflows a b = true ↔ a.msb = b.msb ∧ (a + b).msb ≠ a.msb := by
  rw [addOverflows_eq_saddOverflow, BitVec.saddOverflow_eq]
  simp

/-- Settles O47: the test is of the exact sum (`addOverflows_iff`), and `rt ≤ rs` leaves POP10 and POP30 no other
form. -/
theorem overflowBranches : Obligations.OverflowBranches := by
  refine ⟨fun w hle => ⟨fun hop => ?bovc, fun hop => ?bnvc⟩,
    fun a b => ⟨addOverflows_iff a b, addOverflows_iff_msb a b⟩, fun s rs rt imm => ?transfers⟩
  case bovc => exact decode_bovc w hop (decide_eq_true hle)
  case bnvc => exact decode_bnvc w hop (decide_eq_true hle)
  case transfers =>
    rw [← branchTarget_cpc]
    exact ⟨branchCompact_transfers_iff _ s (addOverflows_iff _ _),
      branchCompact_transfers_iff_not _ s (not_addOverflows_iff _ _)⟩

/-! ## Compact jumps, BEQZC and BNEZC -/

/-- Settles O48: a jump's target is of `x[rt]` before the step, so the link cannot change it. -/
theorem compactJumpsAndZeroBranches : Obligations.CompactJumpsAndZeroBranches := by
  refine ⟨fun w => ?_, fun s r imm imm21 => ?_⟩
  · simp +contextual [decode_pop66_pop76, decodeIType, decodeLongImm]
  · rw [← add_sext16, ← branchTarget21_cpc]
    exact ⟨branchCompact_transfers true _ s, branchCompactLink_transfers true _ s,
      branchCompact_transfers_iff _ s (beq_iff_toNat_eq _ 0#32),
      branchCompact_transfers_iff_not _ s (bne_iff_toNat_ne _ 0#32)⟩

end Sys2Proof.Machine
end

section
/-! PROOFS. Loads and stores (spec/45_loadstore.md): the effective address, the value a load reads and extends, and
where a refused request leaves the step. -/

namespace Sys2Proof.Machine

/-- Settles O50: the address is `relTarget`, the sum of integers modulo 2^32. -/
theorem effectiveAddressWraps : Obligations.EffectiveAddressWraps := by
  intro base imm
  rw [effectiveAddress_eq, relTarget, BitVec.toNat_ofInt]
  exact Int.toNat_of_nonneg (Int.emod_nonneg _ (by decide))

/-! ## What a request of a load or a store leads to -/

/-- An accepted load: one value is read, and every form of the load writes its own extension of it (R271). -/
theorem loadInto_reads {s : State} {a : Word} {n : AccessSize} (ha : a.toNat % n.bytes = 0)
    (hm : MappedAt s a n.bytes) : ∃ m, ReadsAs s a.toNat n.bytes m ∧ ∀ (rt : Reg) (extend : Word → Word),
      ∃ t, loadInto rt a n extend s = .next t ∧ WritesReg s t rt (extend m) :=
  ⟨_, readsAs_assemble s a.toNat n, fun rt extend =>
    loadInto_accepted rt a n extend s (memRead_of_accepted ha hm)⟩

theorem loadInto_fails {s : State} {a : Word} {n : AccessSize} (h : a.toNat % n.bytes ≠ 0 ∨ ¬MappedAt s a n.bytes)
    (rt : Reg) (extend : Word → Word) :
    ∃ t, loadInto rt a n extend s = .next t ∧ FailsWith s t .memLoadError :=
  loadInto_error rt a n extend s ((memRead_eq_none_iff s a n).2 h)

theorem storeFrom_fails {s : State} {a : Word} {n : AccessSize} (h : a.toNat % n.bytes ≠ 0 ∨ ¬MappedAt s a n.bytes)
    (v : Word) : ∃ t, storeFrom a n v s = .next t ∧ FailsWith s t .memStoreError :=
  storeFrom_error a n v s (memWrite_of_rejected v h)

/-! ## Loads -/

/-- A request of one byte reads that byte, under either byte order. -/
theorem ReadsAs.low_byte {s : State} {a : Nat} {v : Word} (h : ReadsAs s a 1 v) :
    v.extractLsb' 0 8 = s.mem.readByte a := by
  obtain ⟨-, hbytes⟩ := h
  have hlane : byteLane s.config.endian 1 0 = 0 := by cases s.config.endian <;> rfl
  simpa [hlane] using hbytes 0 Nat.one_pos

theorem ReadsAs.toNat_byte {s : State} {a : Nat} {v : Word} (h : ReadsAs s a 1 v) :
    v.toNat = (s.mem.readByte a).toNat := by
  rw [← h.low_byte, BitVec.extractLsb'_toNat, Nat.shiftRight_zero, Nat.mod_eq_of_lt h.1]

/-- Sign extension keeps the signed value of the low byte (spec/00_scope.md R10). -/
theorem toInt_sext8 (v : Word) : (sext8 v).toInt = (v.extractLsb' 0 8).toInt :=
  BitVec.toInt_signExtend_of_le (by decide)

/-- Sign extension keeps the signed value of the low half-word (spec/00_scope.md R10). -/
theorem toInt_sext16Low (v : Word) : (sext16Low v).toInt = (v.extractLsb' 0 16).toInt :=
  BitVec.toInt_signExtend_of_le (by decide)

/-- Settles O51: both loads read the one byte, and a byte request is refused only where it is not mapped. -/
theorem byteLoads : Obligations.ByteLoads := by
  refine ⟨fun w => ?decode, fun s rt rs imm => ⟨fun hm => ?accepted, fun hm => ?refused⟩⟩
  case decode => simp +contextual [decode_itype, classify, decodeIType]
  case accepted =>
    obtain ⟨m, hread, hload⟩ := loadInto_reads (n := .byte) (Nat.mod_one _) hm
    obtain ⟨t, ht, hlb⟩ := hload rt sext8
    obtain ⟨u, hu, hlbu⟩ := hload rt id
    exact ⟨⟨t, _, ht, hlb, by rw [toInt_sext8, hread.low_byte]⟩, ⟨u, _, hu, hlbu, hread.toNat_byte⟩⟩
  case refused => exact ⟨loadInto_fails (n := .byte) (.inr hm) rt sext8, loadInto_fails (n := .byte) (.inr hm) rt id⟩

/-- Settles O52: LH and LHU read one half-word and extend it, LW reads a word; the value is what `ReadsAs` says. -/
theorem halfAndWordLoads : Obligations.HalfAndWordLoads := by
  refine ⟨fun w => ?decode, ?exec⟩
  case decode => simp +contextual [decode_itype, classify, decodeIType]
  case exec =>
    rintro s rt rs imm _ rfl
    refine ⟨fun ha hm => ?half, fun h => ?halfRefused, fun ha hm => ?word, fun h => ?wordRefused⟩
    case half =>
      obtain ⟨m, hread, hload⟩ := loadInto_reads (n := .half) ha hm
      obtain ⟨t, ht, hlh⟩ := hload rt sext16Low
      obtain ⟨u, hu, hlhu⟩ := hload rt id
      exact ⟨t, u, _, m, hread, hu, hlhu, ht, hlh, toInt_sext16Low m⟩
    case halfRefused =>
      exact ⟨loadInto_fails (n := .half) h rt sext16Low, loadInto_fails (n := .half) h rt id⟩
    case word =>
      obtain ⟨m, hread, hload⟩ := loadInto_reads (n := .word) ha hm
      obtain ⟨t, ht, hlw⟩ := hload rt id
      exact ⟨t, m, hread, ht, hlw⟩
    case wordRefused => exact loadInto_fails (n := .word) h rt id

/-! ## Stores -/

/-- Settles O53: at each size the store of `x[rt]` is accepted (`storeFrom_stores`) or refused (`storeFrom_fails`). -/
theorem stores : Obligations.Stores := by
  refine ⟨fun w => ?decode, ?exec⟩
  case decode => simp +contextual [decode_itype, classify, decodeIType]
  case exec =>
    rintro s rt rs imm _ rfl hw
    have accepted (n : AccessSize) := storeFrom_stores (effectiveAddress (s.reg rs) imm) n (s.reg rt) s hw
    exact ⟨accepted .byte (Nat.mod_one _), fun hm => storeFrom_fails (n := .byte) (.inr hm) (s.reg rt),
      accepted .half, fun h => storeFrom_fails (n := .half) h (s.reg rt),
      accepted .word, fun h => storeFrom_fails (n := .word) h (s.reg rt)⟩

end Sys2Proof.Machine
end

section
/-! PROOFS. J, JAL, BC and BALC (spec/46_jtype.md): the two kinds of target a 26-bit field gives, and the step that goes
there. -/

namespace Sys2Proof

/-- A word of class J is read by the J-type handler (R98, R124). -/
theorem decode_jtype {w : Word} (hc : classify w = some .jtype) : decode w = decodeJType w := by
  simp only [decode, hc, decodeClass]

end Sys2Proof

namespace Sys2Proof.Machine

/-- `cpc[31:28] ## address ## 0b00` in numbers: the start of the 2^28-byte region of `cpc`, and the word `address` in
it (R96). -/
theorem jumpTarget_eq (cpc : Word) (address : BitVec 26) :
    jumpTarget cpc address = BitVec.ofNat 32 (cpc.toNat / 2 ^ 28 * 2 ^ 28 + address.toNat * 4) := by
  apply BitVec.eq_of_toNat_eq
  rw [jumpTarget, BitVec.toNat_append, BitVec.toNat_append, BitVec.toNat_zero, Nat.or_zero,
    ← Nat.shiftLeft_add_eq_or_of_lt address.isLt, BitVec.extractLsb'_toNat, BitVec.toNat_ofNat]
  simp only [Nat.shiftLeft_eq, Nat.shiftRight_eq_div_pow]
  omega

/-- The region of the target of J and JAL is that of `cpc` (R291, R292). -/
theorem jumpTarget_cpc (s : State) (address : BitVec 26) : jumpTarget s.cpc address =
    BitVec.ofNat 32 (s.updatedPc.toNat / 2 ^ 28 * 2 ^ 28 + address.toNat * 4) := by
  rw [jumpTarget_eq, cpc_eq]

/-- The target of BC and BALC, whose offset has 26 bits (R293, R294). -/
theorem branchTarget26_cpc (s : State) (address : BitVec 26) :
    branchTarget26 s.cpc address = relTarget s.updatedPc (4 * address.toInt) := by
  rw [branchTarget26_eq, cpc_eq]

/-- Settles O49: J and JAL arm the slot with the target in the region of `cpc`; BC and BALC, always taken, go the
signed offset from `cpc` at once. -/
theorem jumpsAndLongBranches : Obligations.JumpsAndLongBranches := by
  refine ⟨fun w => ?_, fun s address => ?_⟩
  · simp +contextual [decode_jtype, classify, decodeJType]
  · rw [← jumpTarget_cpc, ← branchTarget26_cpc]
    exact ⟨branchDelayed_transfers true _ s, jumpDelayedLink_transfers _ s,
      branchCompact_transfers true _ s, branchCompactLink_transfers true _ s⟩

end Sys2Proof.Machine
end

section
/-! PROOFS. SPECIAL3 byte shuffles, sign extensions and bit fields (spec/48_special3.md): each result bit by bit, and when
a bit field is out of range. -/

namespace Sys2Proof

/-- A SPECIAL3 word is read by the handler of the class its `minor` selects (R101, R124). -/
theorem decode_special3 {w : Word} {c : InstrClass} (hop : opField w = 31#6) (hc : classifySpecial3 w = some c) :
    decode w = decodeClass w c := by
  simp only [decode, classify, hop, hc]

/-- A SPECIAL3 word of `minor` 32 is read by the BSHFL handler (R101). -/
theorem decode_bshfl {w : Word} (hop : opField w = 31#6) (hf : funcField w = 32#6) : decode w = decodeBshfl w :=
  decode_special3 hop (c := .special3Bshfl) (by simp only [classifySpecial3, hf])

/-- ALIGN's `bp` is the low part of the field that selects it (R85). -/
theorem bpField_val (w : Word) : (bpField w).val = (bfuncField w).toNat % 4 := by
  change (w.extractLsb' 6 2).toNat = (w.extractLsb' 6 5).toNat % 4
  rw [BitVec.extractLsb'_toNat, BitVec.extractLsb'_toNat]
  omega

end Sys2Proof

namespace Sys2Proof.Machine

/-! ## Byte shuffles -/

theorem getLsbD_byteOf (v : Word) (k : Nat) {j : Nat} (hj : j < 8) :
    (byteOf v k).getLsbD j = v.getLsbD (8 * k + j) := by
  rw [byteOf, BitVec.getLsbD_extractLsb', decide_eq_true hj, Bool.true_and]

/-- A word put together from four bytes holds byte `k` at bits `8k+7 .. 8k`. -/
theorem getLsbD_append_bytes (b : Nat → Byte) {k j : Nat} (hk : k < 4) (hj : j < 8) :
    (b 3 ++ b 2 ++ b 1 ++ b 0).getLsbD (8 * k + j) = (b k).getLsbD j := by
  have hcases : k = 0 ∨ k = 1 ∨ k = 2 ∨ k = 3 := by omega
  obtain rfl | rfl | rfl | rfl := hcases
  all_goals
    simp (disch := omega) only [BitVec.getLsbD_append, if_pos, if_neg]
    congr 1
    omega

/-- BITSWAP builds byte `k` from byte `k`, reversed (R311). -/
theorem getLsbD_bitswapWord (v : Word) {k j : Nat} (hk : k < 4) (hj : j < 8) :
    (bitswapWord v).getLsbD (8 * k + j) = v.getLsbD (8 * k + 7 - j) := by
  calc (bitswapWord v).getLsbD (8 * k + j)
      = (byteOf v k).reverse.getLsbD j := getLsbD_append_bytes (fun i => (byteOf v i).reverse) hk hj
    _ = (byteOf v k).getLsbD (7 - j) := by
      rw [BitVec.getLsbD_reverse, BitVec.getMsbD_eq_getLsbD, decide_eq_true hj, Bool.true_and, Nat.sub_right_comm]
    _ = v.getLsbD (8 * k + 7 - j) := by rw [getLsbD_byteOf v k (by omega), ← Nat.add_sub_assoc (by omega)]

/-- WSBH builds each byte from the other byte of its half-word: byte `k` from byte `k + 1` when `k` is even, and from
byte `k - 1` when it is odd (R312). -/
theorem getLsbD_wsbhWord (v : Word) {k j : Nat} (hk : k < 4) (hj : j < 8) :
    (wsbhWord v).getLsbD (8 * k + j) = v.getLsbD (8 * (k + 1 - 2 * (k % 2)) + j) := by
  rw [← getLsbD_byteOf v _ hj]
  exact getLsbD_append_bytes (fun i => byteOf v (i + 1 - 2 * (i % 2))) hk hj

/-- Settles O54: the shuffles byte by byte, and the extensions keep the signed value. -/
theorem byteShufflesAndSignExtensions : Obligations.ByteShufflesAndSignExtensions := by
  refine ⟨fun w hop hf => ?decode, fun s rd rt => ⟨?bitswap, ?wsbh, ?seb, ?seh⟩⟩
  case decode => simp +contextual [decode_bshfl hop hf, decodeBshfl]
  case bitswap => exact writeResult_writes_with fun k hk j hj => getLsbD_bitswapWord _ hk hj
  case wsbh =>
    refine writeResult_writes_with fun h hh j hj => ⟨?_, ?_⟩
    · have hlow := getLsbD_wsbhWord (s.reg rt) (k := 2 * h) (by omega) hj
      convert hlow using 2 <;> omega
    · have hhigh := getLsbD_wsbhWord (s.reg rt) (k := 2 * h + 1) (by omega) hj
      convert hhigh using 2 <;> omega
  case seb => exact writeResult_writes_with (toInt_sext8 _)
  case seh => exact writeResult_writes_with (toInt_sext16Low _)

/-- The part of `lo` stands above bit `8 * bp`, and the part of `hi` below it (R313). -/
theorem getLsbD_alignWord (hi lo : Word) {bp k j : Nat} (hk : k < 4) (hj : j < 8) :
    (alignWord hi lo bp).getLsbD (8 * k + j) =
      if k < bp then hi.getLsbD (8 * (4 - bp + k) + j) else lo.getLsbD (8 * (k - bp) + j) := by
  by_cases h0 : bp = 0
  · rw [alignWord, if_pos h0, h0, if_neg (Nat.not_lt_zero k), Nat.sub_zero]
  · rw [alignWord, if_neg h0, BitVec.getLsbD_or, BitVec.getLsbD_shiftLeft, BitVec.getLsbD_ushiftRight]
    split
    case isTrue h =>
      simp [show 8 * k + j < 8 * bp by omega, Nat.mul_add, Nat.add_assoc]
    case isFalse h =>
      have hout : hi.getLsbD (8 * (4 - bp) + (8 * k + j)) = false := BitVec.getLsbD_of_ge hi _ (by omega)
      simp [hout, show 8 * k + j < 32 by omega, show 8 * bp ≤ 8 * k + j by omega,
        show 8 * k + j - 8 * bp = 8 * (k - bp) + j by omega]

/-- Settles O55: each of the four values of `bfunc` gives its `bp`, and the result is known bit by bit
(`getLsbD_alignWord`). -/
theorem alignConcatenatesBytes : Obligations.AlignConcatenatesBytes := by
  refine ⟨fun w hop hf hb => ?decode, fun s rd rs rt bp => ?exec⟩
  case decode =>
    rw [decode_bshfl hop hf, bpField_val]
    obtain h | h | h | h := hb <;> simp [decodeBshfl, h]
  case exec => exact writeResult_writes_with fun k hk j hj => getLsbD_alignWord _ _ hk hj

/-! ## Bit fields -/

/-- A bit field in range is one result, and of that result `P` holds. -/
theorem fieldInto_writes_with {P : Word → Prop} {rt : Reg} {out : Bool} {v : Word} {s : State} (h : out = false)
    (hv : P v) : ∃ t u, fieldInto rt out v s = .next t ∧ WritesReg s t rt u ∧ P u := by
  obtain ⟨t, ht, hw⟩ := fieldInto_in rt v s h
  exact ⟨t, v, ht, hw, hv⟩

/-- The field's bits, moved down to bit 0, and zeros above its width (R318). -/
theorem getLsbD_extractField (v : Word) (lsb msbd : Nat) {k : Nat} (hk : k < 32) :
    (extractField v lsb msbd).getLsbD k = (decide (k ≤ msbd) && v.getLsbD (lsb + k)) := by
  rw [extractField, BitVec.getLsbD_and, BitVec.getLsbD_ushiftRight, lowMask_getLsbD hk, Bool.and_comm]
  simp only [Nat.lt_succ_iff]

/-- Settles O56: the field fits a word exactly when its top bit, `lsb + msbd`, is at most 31. -/
theorem extractBitField : Obligations.ExtractBitField := by
  refine ⟨fun w hop hf => ?decode, fun s rt rs lsb msbd => ⟨fun hle => ?inRange, fun hlt => ?outOfRange⟩⟩
  case decode => exact decode_special3 hop (c := .special3Ext) (by simp only [classifySpecial3, hf])
  case inRange =>
    exact fieldInto_writes_with (decide_eq_false (by omega)) fun k hk => getLsbD_extractField _ _ _ hk
  case outOfRange => exact fieldInto_out rt _ s (decide_eq_true (by omega))

/-- INS's mask selects the bits `msb .. lsb` (R319). -/
theorem getLsbD_insertMask {lsb msb k : Nat} (hle : lsb ≤ msb) (hk : k < 32) :
    (lowMask (msb - lsb + 1) <<< lsb).getLsbD k = decide (lsb ≤ k ∧ k ≤ msb) := by
  rw [BitVec.getLsbD_shiftLeft, lowMask_getLsbD (by omega), Bool.eq_iff_iff]
  simp only [Bool.and_eq_true, Bool.not_eq_true', decide_eq_true_iff, decide_eq_false_iff_not]
  omega

/-- Under the mask stand the low bits of `v`, moved up to `lsb`, and elsewhere the bits of `old` (R319). -/
theorem getLsbD_insertField (old v : Word) {lsb msb k : Nat} (hle : lsb ≤ msb) (hk : k < 32) :
    (insertField old v lsb msb).getLsbD k =
      if lsb ≤ k ∧ k ≤ msb then v.getLsbD (k - lsb) else old.getLsbD k := by
  rw [insertField, BitVec.getLsbD_or, BitVec.getLsbD_and, BitVec.getLsbD_and, BitVec.getLsbD_not,
    getLsbD_insertMask hle hk, BitVec.getLsbD_shiftLeft, decide_eq_true hk]
  by_cases h : lsb ≤ k ∧ k ≤ msb
  case pos => simp [h]
  case neg => simp [h]

/-- Settles O57: the field has a bit exactly when `lsb ≤ msb`. -/
theorem insertBitField : Obligations.InsertBitField := by
  refine ⟨fun w hop hf => ?decode, fun s rt rs lsb msb => ⟨fun hle => ?inRange, fun hlt => ?outOfRange⟩⟩
  case decode => exact decode_special3 hop (c := .special3Ins) (by simp only [classifySpecial3, hf])
  case inRange =>
    exact fieldInto_writes_with (decide_eq_false (Nat.not_lt.2 hle)) fun k hk => getLsbD_insertField _ _ hle hk
  case outOfRange => exact fieldInto_out rt _ s (decide_eq_true hlt)

end Sys2Proof.Machine
end

section
/-! PROOFS. The inverse of the encoder (spec/30_encoding.md sections 1 to 3): what the rows' readings say of the
instructions the decoder answers, and the decoder on every word the encoder builds. -/

namespace Sys2Proof

/-! ## What the decoder answers -/

/-- What holds of every row and its reading holds of a row that selects the decoded word. -/
theorem exists_reading_of_decode {P : Row → (Word → Instr) → Prop} (hP : List.Forall₂ P opcodeTable rowReadings)
    {w : Word} {i : Instr} (h : decode w = .ok i) : ∃ r f, P r f ∧ r.selects w = true ∧ f w = i := by
  obtain ⟨r, hr, hw⟩ := hasRow_of_decode h
  obtain ⟨k, hk, rfl⟩ := List.getElem_of_mem hr
  have hk' : k < rowReadings.length := opcodeTable_decodes.length_eq ▸ hk
  have hdec := opcodeTable_decodes.get hk hk' w hw
  exact ⟨_, rowReadings[k], hP.get hk hk', hw, Except.ok.inj (hdec.symm.trans h)⟩

/-- A row's constraint is what its instruction needs to be well-formed (R104). -/
theorem rowReadings_wellFormed : List.Forall₂ (fun (r : Row) f => ∀ w,
    r.constraint.holds (rsField w) (rtField w) = true → Instr.wellFormed (f w) = true) opcodeTable rowReadings := by
  simp +contextual [opcodeTable, opcodeTable1, opcodeTable2, opcodeTable3, opcodeTable4, opcodeTable5, rowReadings,
    rowReadings1, rowReadings2, rowReadings3, rowReadings4, rowReadings5, Instr.wellFormed, Constraint.holds]

theorem wellFormed_of_decode {w : Word} {i : Instr} (h : decode w = .ok i) : i.wellFormed = true := by
  obtain ⟨r, f, hf, hw, rfl⟩ := exists_reading_of_decode rowReadings_wellFormed h
  exact hf w (Row.selects_iff.1 hw).2

/-! ## The decoder on the encoder's words -/

theorem fiveBits_one : fiveBits 1 = 1#5 := rfl
theorem fiveBits_two : fiveBits 2 = 2#5 := rfl
theorem fiveBits_three : fiveBits 3 = 3#5 := rfl

/-- The `bfunc` of ALIGN shows that it is ALIGN, and `bp` (R85, R101). -/
theorem align_bfunc (bp : Fin 4) : (2#3 ++ BitVec.ofFin (w := 2) bp).extractLsb' 2 3 = 2#3 ∧
    ((2#3 ++ BitVec.ofFin (w := 2) bp).extractLsb' 0 2).toFin = bp := by
  revert bp
  decide

/-- One case per handler: its match runs on the fields of the built word. Where several forms share an `op`, the
operands of a well-formed instruction choose its form (R104). -/
theorem decode_encode (i : Instr) (h : i.wellFormed = true) : decode (encode i) = .ok i := by
  cases i with
  | sll | srl | rotr | sra | sllv | srlv | rotrv | srav | jr | jalr | clz | clo | add | addu | sub | subu | and | or
  | xor | nor | slt | sltu | seleqz | selnez =>
    simp [encode, specialWord, decode_special, decodeRType, fiveBits_one]
  | mul | muh | mulu | muhu | div | mod | divu | modu =>
    simp [encode, specialWord, decode_special, decodeRType, decodeSop, fiveBits_two, fiveBits_three]
  | tge | tgeu | tlt | tltu | teq | tne => simp [encode, decode_special, decodeRType]
  | bltz | bgez => simp [encode, immWord, decode_regimm, decodeRegimm, fiveBits_one]
  | j | jal | bc | balc => simp [encode, decode_jtype, classify, decodeJType]
  | beq | bne | addiu | slti | sltiu | andi | ori | xori | aui | lb | lh | lw | lbu | lhu | sb | sh | sw =>
    simp [encode, immWord, decode_itype, classify, decodeIType]
  | blez | blezalc | bgezalc | bgeuc | bgtz | bgtzalc | bltzalc | bltuc =>
    simp_all [encode, immWord, decode_pop, decodePop06, decodePop07, Instr.wellFormed]
  | blezc | bgezc | bgec | bgtzc | bltzc | bltc | pop26Nop | pop27Nop =>
    simp_all [encode, immWord, decode_pop, decodePop26, decodePop27, Instr.wellFormed]
  | beqzalc | beqc | bnezalc | bnec =>
    simp_all [encode, immWord, decode_pop, decodePop10, decodePop30, Instr.wellFormed]
  | bovc | bnvc =>
    obtain ⟨hz, hlt⟩ := rsGeRt_excludes h
    simp [encode, immWord, decode_pop, decodePop10, decodePop30, if_neg hz, if_neg hlt]
  | cop1 => exact decode_cop1 (opField_iWord 17#6 0#5 0#5 0#16)
  | ext | ins => simp [encode, special3Word, decode, classify, classifySpecial3, decodeClass]
  | bitswap | wsbh | seb | seh =>
    simp [encode, special3Word, decode, classify, classifySpecial3, decodeClass, decodeBshfl]
  | align rd rs rt bp =>
    obtain ⟨hb, hbp⟩ := align_bfunc bp
    rw [decode_align] <;> simp [encode, special3Word, hb, hbp, -BitVec.toFin_extractLsb']
  | jic | beqzc | jialc | bnezc =>
    simp_all [encode, immWord, decode_pop66_pop76, decodeIType, decodeLongImm, Instr.wellFormed]
  | addiupc | lwpc | auipc | aluipc =>
    simp [encode, decode, classify, classifyPcrel, decodeClass, decodePcrel1, decodePcrel2]

/-- Settles O2: the decoder reads back what the encoder wrote, and a row's constraint makes its instruction
well-formed. -/
theorem decodeInvertsEncode : Obligations.DecodeInvertsEncode :=
  ⟨decode_encode, fun _ _ => wellFormed_of_decode⟩

end Sys2Proof
end

section
/-! PROOFS. Exceptions (spec/60_exceptions.md): a trap records its own word, and nothing else touches the record. -/

namespace Sys2Proof.Machine

/-- The fields of a word that a trap row selects rebuild it (R202). -/
theorem trapWord_of_selects {r : Row} {func : BitVec 6} (hr : r.Fixes 26 6 0#6 ∧ r.Fixes 0 6 func) (w : Word)
    (hw : r.selects w = true) : trapWord (rsField w) (rtField w) (codeField w) func = w :=
  trapWord_fields (hr.1.field hw) (hr.2.field hw)

/-- The six trap rows: the reading of a word encodes back to it, since a trap row has no ignored field. -/
theorem rowReadings_trap_encode : List.Forall₂ (fun (r : Row) f => ∀ w, isTrap (f w) = true →
    r.selects w = true → encode (f w) = w) opcodeTable rowReadings := by
  simp only [opcodeTable, opcodeTable1, opcodeTable2, opcodeTable3, opcodeTable4, opcodeTable5, rowReadings,
    rowReadings1, rowReadings2, rowReadings3, rowReadings4, rowReadings5, List.cons_append, List.nil_append,
    List.forall₂_cons, List.Forall₂.nil, isTrap, Bool.false_eq_true, false_imp_iff, true_imp_iff, implies_true,
    true_and, and_true, encode]
  exact ⟨trapWord_of_selects (by decide), trapWord_of_selects (by decide), trapWord_of_selects (by decide),
    trapWord_of_selects (by decide), trapWord_of_selects (by decide), trapWord_of_selects (by decide)⟩

/-- The word a trap records, `encode i`, is the word it was decoded from (R352). -/
theorem encode_of_decode_trap {w : Word} {i : Instr} (h : decode w = .ok i) (hi : isTrap i = true) :
    encode i = w := by
  obtain ⟨r, f, hf, hw, rfl⟩ := exists_reading_of_decode rowReadings_trap_encode h
  exact hf w hi hw

/-- An instruction that changes the record, or answers Trap, is a trap that has recorded its word. -/
theorem Effect.trap_of_exc {i : Instr} {s t : State} (h : Effect i s t)
    (hx : t.exc ≠ s.exc ∨ t.answer = .failure .trap) :
    isTrap i = true ∧ t.answer = .failure .trap ∧ t.exc = some ⟨.trap, encode i⟩ := by
  cases h with
  | trap hi => exact ⟨hi, rfl, rfl⟩
  | failure _ ht => simp [ht] at hx
  | nothing | result | arm | linkArm | jump | linkJump | link | store => simp at hx

/-- Settles O13: no fetch and no rejected word touches the record, and `Effect.trap_of_exc` speaks of the
instructions. -/
theorem onlyTrapsRecordAnException : Obligations.OnlyTrapsRecordAnException := by
  intro s t h hx
  obtain ⟨-, rfl⟩ | ⟨_, e, -, -, rfl⟩ | ⟨w, i, hf, hd, -, he⟩ := step_cases h
  · simp at hx
  · obtain hr | hr | hr := rejectReason_cases s e <;> simp [hr] at hx
  · obtain ⟨hi, ha, hexc⟩ := he.trap_of_exc hx
    exact ⟨w, i, hf, hd, hi, ha, by rw [hexc, encode_of_decode_trap hd hi]⟩

end Sys2Proof.Machine
end

section
/-! PROOFS. The invariant of the memory (spec/20_memory.md R68; log entry 21) and the parameters: after
reset and over a step. -/

namespace Sys2Proof.Machine

/-- The invariant sees only the memory and the parameters. -/
theorem State.Inv.congr {s t : State} (h : s.Inv) (hm : t.mem = s.mem) (hc : t.config = s.config) : t.Inv := by
  rwa [State.Inv, hm, hc]

/-- An accepted store lists no address but those of its bytes, which are mapped (R55). -/
theorem State.Inv.placeValue {s : State} (h : s.Inv) {a : Word} {n : AccessSize} (v : Word)
    (hacc : acceptsRequest s.config a n = true) : (s.placeValue a n v).Inv := by
  obtain ⟨hwf, hmapped⟩ := h
  obtain ⟨-, hreq⟩ := (acceptsRequest_iff s a n).1 hacc
  refine ⟨writeBytes_wf hwf _ _, fun c hc => ?_⟩
  obtain ⟨k, hk, hck⟩ | hold := mem_writeBytes hc
  · rw [hck]
    exact hreq k (by simpa using hk)
  · exact hmapped c hold

theorem Effect.config_eq {i : Instr} {s t : State} (h : Effect i s t) : t.config = s.config := by
  cases h with
  | nothing | result | failure | trap | arm | linkArm | jump | linkJump | link | store => simp

theorem Effect.keeps_inv {i : Instr} {s t : State} (h : Effect i s t) (hs : s.Inv) : t.Inv := by
  cases h with
  | nothing | result | failure | trap | arm | linkArm | jump | linkJump | link => exact hs.congr (by simp) (by simp)
  | store a n v _ hacc => exact (hs.placeValue v hacc).congr (by simp) (by simp)

/-- Settles O19: a step without a decoded instruction leaves memory and parameters alone, and `Effect.config_eq` and
`Effect.keeps_inv` speak of the others. -/
theorem stepKeepsMemoryCanonicalAndParameters : Obligations.StepKeepsMemoryCanonicalAndParameters := by
  intro s t h
  obtain ⟨-, rfl⟩ | ⟨_, _, -, -, rfl⟩ | ⟨_, _, -, -, -, he⟩ := step_cases h
  · exact ⟨by simp, fun hs => hs.congr (by simp) (by simp)⟩
  · exact ⟨by simp, fun hs => hs.congr (by simp) (by simp)⟩
  · exact ⟨he.config_eq, he.keeps_inv⟩

/-- Settles O20: a memory that lists nothing is canonical and lists nothing unmapped. -/
theorem resetIsCanonical : Obligations.ResetIsCanonical :=
  ⟨⟨.nil, fun _ hc => absurd hc List.not_mem_nil⟩, fun _ hc => absurd hc List.not_mem_nil⟩

end Sys2Proof.Machine
end

section
/-! PROOFS. Reset, the delay slot, and the host's placing of a word (spec/70_reset_and_hazards.md). -/

namespace Sys2Proof.Machine

/-! ## Reset -/

theorem reset_reg (q : Reg) : State.reset.reg q = 0#32 := by
  by_cases hq : q = 0
  · rw [hq, reg_zero]
  · rw [reg_of_ne_zero _ hq]
    simp [State.reset, Vector.get_eq_getElem]

/-- Settles O21: of the registers `reset_reg` speaks, and the other three fields are as `State.reset` states them. -/
theorem resetState : Obligations.ResetState :=
  ⟨reset_reg, rfl, rfl, rfl⟩

/-! ## The delay slot -/

/-- An instruction that leaves a target pending is a legacy transfer, which succeeds and does not itself jump (R29). -/
theorem Effect.legacy_of_dbt {i : Instr} {s t : State} (h : Effect i s t) (hdbt : t.dbt ≠ none) :
    isLegacyTransfer i = true ∧ t.pc = s.updatedPc ∧ t.answer = .success := by
  cases h with
  | arm _ hi | linkArm _ hi => exact ⟨hi, by simp, rfl⟩
  | nothing | result | failure | trap | jump | linkJump | link | store => simp at hdbt

/-- Settles O16: a rejected word empties the slot by `update_pc()`, and `Effect.legacy_of_dbt` speaks of the
instructions. -/
theorem onlyLegacyTransfersArmTheSlot : Obligations.OnlyLegacyTransfersArmTheSlot := by
  intro s t w hf h hdbt
  obtain ⟨hn, -⟩ | ⟨_, _, -, -, rfl⟩ | ⟨w', i, hf', hd, -, he⟩ := step_cases h
  · simp [hn] at hf
  · exact absurd (by simp) hdbt
  · obtain rfl : w' = w := Option.some.inj (hf'.symm.trans hf)
    exact ⟨i, hd, he.legacy_of_dbt hdbt⟩

theorem updatedPc_of_dbt_some {s : State} {T : Word} (h : s.dbt = some T) : s.updatedPc = T := by
  simp [State.updatedPc, h]

/-- Settles O26: the second step's `update_pc()` goes to `T`, and only a compact transfer would then write `pc`
(O15). -/
theorem delaySlotThenTarget : Obligations.DelaySlotThenTarget := by
  intro s t u T w _ hdbt hf hu hcompact
  rw [← updatedPc_of_dbt_some hdbt]
  by_contra hpc
  obtain ⟨i, hd, hi⟩ := onlyCompactTransfersWritePc t u w hf hu hpc
  simp [hcompact i hd] at hi

/-! ## Placing a word -/

theorem and_highMask (v : Word) (k : Nat) : v &&& (BitVec.allOnes 32 <<< k) = (v >>> k) <<< k := by
  apply BitVec.eq_of_getLsbD_eq
  intro i hi
  by_cases hk : i < k
  · simp [hk]
  · simp only [BitVec.getLsbD_and, BitVec.getLsbD_shiftLeft, BitVec.getLsbD_allOnes, BitVec.getLsbD_ushiftRight, hi,
      hk, show k + (i - k) = i by omega, show i - k < 32 by omega, decide_true, decide_false, Bool.not_false,
      Bool.true_and, Bool.and_true]

/-- Clearing the low `k` bits rounds down to a multiple of 2^k. -/
theorem toNat_and_highMask (v : Word) (k : Nat) :
    (v &&& (BitVec.allOnes 32 <<< k)).toNat = v.toNat / 2 ^ k * 2 ^ k := by
  have hle : v.toNat / 2 ^ k * 2 ^ k < 2 ^ 32 := (Nat.div_mul_le_self _ _).trans_lt v.isLt
  rw [and_highMask, BitVec.toNat_shiftLeft, BitVec.toNat_ushiftRight, Nat.shiftRight_eq_div_pow, Nat.shiftLeft_eq,
    Nat.mod_eq_of_lt hle]

@[simp] theorem mapWord_pc (s : State) (a : Word) : (s.mapWord a).pc = s.pc := by
  unfold State.mapWord; split <;> rfl
@[simp] theorem mapWord_dbt (s : State) (a : Word) : (s.mapWord a).dbt = s.dbt := by
  unfold State.mapWord; split <;> rfl
@[simp] theorem mapWord_exc (s : State) (a : Word) : (s.mapWord a).exc = s.exc := by
  unfold State.mapWord; split <;> rfl
@[simp] theorem mapWord_mem (s : State) (a : Word) : (s.mapWord a).mem = s.mem := by
  unfold State.mapWord; split <;> rfl
@[simp] theorem mapWord_reg (s : State) (a : Word) (q : Reg) : (s.mapWord a).reg q = s.reg q := by
  unfold State.mapWord; split <;> rfl

/-- The address at which a word is placed: `pc` rounded down to a multiple of 4 (log entry 15). -/
theorem withFetchWord_pc (s : State) (nbits w : Nat) : (s.withFetchWord nbits w).pc = s.pc &&& 0xFFFFFFFC#32 := by
  simp [State.withFetchWord]

theorem toNat_withFetchWord_pc (s : State) (nbits w : Nat) :
    (s.withFetchWord nbits w).pc.toNat = s.pc.toNat / 4 * 4 := by
  rw [withFetchWord_pc]
  exact toNat_and_highMask s.pc 2

/-- After `mapWord` the bytes of an aligned word are mapped: they were, or their range is now listed. -/
theorem mapWord_mappedAt (s : State) {a : Word} (ha : a.toNat % 4 = 0) : MappedAt (s.mapWord a) a 4 := by
  have hlt := a.isLt
  unfold State.mapWord
  split
  · exact ((acceptsRequest_iff s a .word).1 ‹_›).2
  · intro k hk
    simp [isMapped, show a.toNat + k < 4294967296 by omega, show k ≤ 3 by omega]

/-- A word stored at an aligned, mapped address is what a read of that word returns (R56). -/
theorem memRead_placeValue_word {s : State} (hw : s.mem.wf) {a : Word} (ha : a.toNat % 4 = 0) (hm : MappedAt s a 4)
    (v : Word) : (s.placeValue a .word v).memRead a .word = some v := by
  rw [storeThenReadReturnsTheValue s _ _ a v .word hw (memWrite_of_accepted v ha hm) rfl fun _ _ _ => rfl]
  exact congrArg some (BitVec.and_allOnes (x := v))

/-- Settles O22: the word is placed at the rounded `pc`, where the fetch reads it back. -/
theorem placedWordIsFetched : Obligations.PlacedWordIsFetched := by
  intro s w hw
  have hword : BitVec.ofNat 32 (w.toNat % 2 ^ 32) = w := by
    rw [Nat.mod_eq_of_lt w.isLt, BitVec.ofNat_toNat, BitVec.setWidth_eq]
  have ha := toNat_withFetchWord_pc s 32 w.toNat
  rw [withFetchWord_pc] at ha
  refine ⟨?fetch, by simp [State.withFetchWord], by simp [State.withFetchWord], by simp [State.withFetchWord],
    fun hpc => ?pc⟩
  case fetch =>
    rw [State.fetch, withFetchWord_pc, State.withFetchWord, hword]
    exact memRead_placeValue_word (by simpa using hw) (by omega) (mapWord_mappedAt _ (by omega)) w
  case pc =>
    apply BitVec.eq_of_toNat_eq
    rw [toNat_withFetchWord_pc]
    omega

end Sys2Proof.Machine
end

section
/-! PROOFS. The host's views of a register (spec/10_state.md R22). -/

namespace Sys2Proof.Machine

theorem hostGet_setReg (s : State) {r : Reg} (hr : r ≠ 0) (v : Word) :
    (s.setReg r v).hostGet r = ⟨v.toNat, v.toInt⟩ := by
  simp [State.hostGet, reg_setReg, hr]

/-- Settles O24: the register holds the pattern of `v` modulo 2^32, whose views are `v` within their range. -/
theorem hostRegisterViewsRoundTrip : Obligations.HostRegisterViewsRoundTrip := by
  intro s r hr
  refine ⟨fun v hlo hhi => ?signed, fun v hv => ?unsigned, fun v u huv => ?same⟩
  case signed =>
    rw [State.hostSetSigned, hostGet_setReg s hr]
    exact BitVec.toInt_ofInt_eq_self (by decide) hlo hhi
  case unsigned =>
    rw [State.hostSetUnsigned, hostGet_setReg s hr]
    exact Nat.mod_eq_of_lt hv
  case same =>
    rw [State.hostSetSigned, State.hostSetUnsigned]
    congr 1
    apply BitVec.eq_of_toNat_eq
    rw [BitVec.toNat_ofInt, BitVec.toNat_ofNat]
    omega

end Sys2Proof.Machine
end

section
/-! PROOFS. PC-relative instructions and the floating-point stub (spec/49_pcrel_fpu.md): each address as `iaddr` plus an
integer offset, and the value written. -/

namespace Sys2Proof

/-- `pfunc2` is the top two bits of the sub-operation field (R88, R89). -/
theorem pfunc2Field_eq (w : Word) : pfunc2Field w = (subopField w).extractLsb' 3 2 :=
  field_eq fun i hi => by simp [subopField, hi, show 3 + i < 5 by omega, show 19 + i = 16 + (3 + i) by omega]

/-- ADDIUPC and LWPC are the PCREL words of type 1 (R102). -/
theorem decode_pcrel1 {w : Word} (hop : opField w = 59#6) (h : pfunc2Field w = 0#2 ∨ pfunc2Field w = 1#2) :
    decode w = decodePcrel1 w := by
  obtain h | h := h <;> simp only [decode, classify, hop, classifyPcrel, h, decodeClass]

/-- AUIPC and ALUIPC are the PCREL words of type 2: their sub-operation excludes type 1 (R102). -/
theorem decode_pcrel2 {w : Word} (hop : opField w = 59#6) (h : subopField w = 30#5 ∨ subopField w = 31#5) :
    decode w = decodePcrel2 w := by
  have htop : pfunc2Field w = 3#2 := by
    rw [pfunc2Field_eq]
    obtain h | h := h <;> rw [h] <;> rfl
  obtain h | h := h <;> simp [decode, classify, hop, classifyPcrel, htop, h, decodeClass]

end Sys2Proof

namespace Sys2Proof.Machine

/-- The offset of ADDIUPC and LWPC counts words (R331). -/
theorem pcrelAddress_eq (iaddr : Word) (imm19 : BitVec 19) :
    pcrelAddress iaddr imm19 = relTarget iaddr (4 * imm19.toInt) := by
  have hoff : (imm19 ++ 0b00#2).toInt = 4 * imm19.toInt := BitVec.toInt_append_zero
  rw [relTarget_eq, ← hoff]
  rfl

theorem pcrelUpper_eq (iaddr : Word) (imm : BitVec 16) :
    pcrelUpper iaddr imm = relTarget iaddr (imm.toNat * 2 ^ 16) :=
  add_upperImm iaddr imm

theorem toNat_pcrelUpper (iaddr : Word) (imm : BitVec 16) :
    (pcrelUpper iaddr imm).toNat = (iaddr.toNat + imm.toNat * 2 ^ 16) % 2 ^ 32 := by
  rw [pcrelUpper, upperImm_eq, BitVec.toNat_add, BitVec.toNat_ofNat, Nat.add_mod_mod]

/-- Settles O58: the three write `pcrelAddress` or `pcrelUpper` of `s.pc`, ALUIPC without its low half-word. -/
theorem pcRelativeResults : Obligations.PcRelativeResults := by
  refine ⟨fun w hop => ?decode, fun s rs imm19 imm => ?exec⟩
  case decode =>
    simp +contextual [decode_pcrel1 hop, decode_pcrel2 hop, decodePcrel1, decodePcrel2]
  case exec =>
    rw [← pcrelAddress_eq, ← pcrelUpper_eq]
    refine ⟨writeResult_writes rs _ s, writeResult_writes rs _ s, writeResult_writes_with ?_⟩
    rw [← toNat_pcrelUpper]
    exact toNat_and_highMask (pcrelUpper s.pc imm) 16

/-- Settles O59: LWPC is a word load at `pcrelAddress`, accepted (`loadInto_reads`) or refused (`loadInto_fails`). -/
theorem pcRelativeLoad : Obligations.PcRelativeLoad := by
  refine ⟨fun w hop h => ?decode, ?exec⟩
  case decode => simp [decode_pcrel1 hop (.inr h), decodePcrel1, h]
  case exec =>
    rintro s rs imm19 _ rfl
    rw [← pcrelAddress_eq]
    refine ⟨fun ha hm => ?accepted, fun h => loadInto_fails (n := .word) h rs id⟩
    obtain ⟨m, hread, hload⟩ := loadInto_reads (n := .word) ha hm
    obtain ⟨t, ht, hwrites⟩ := hload rs id
    exact ⟨t, m, hread, ht, hwrites⟩

/-- Settles O60: every floating-point class is the one stub, which stops after `update_pc()`. -/
theorem floatingPointStubFails : Obligations.FloatingPointStubFails :=
  ⟨fun _ => decode_cop1, failStep_fails .fpuUnimplemented⟩

end Sys2Proof.Machine
end
